-- ==== Sys2Proof/Word.lean ====
section
/-! DEFINITION. The widths of the block's words: the input word of rule R52, the six register widths of rule R20
and the two result widths of rules R71 and R75. Flags and line levels are one-bit values and are `Bool` (R10, R58). -/

namespace Sys2Proof

/-- One per-tick input word `cmd = {rst, rx}` (R52): bit 1 is `rst`, bit 0 is `rx`. -/
abbrev Cmd := BitVec 2

/-- A decoded byte, and the register `rxByte` (R26, R42). -/
abbrev Byte := BitVec 8

/-- `bitFracAccumulator`, 17 bits (R20, R21). -/
abbrev BitFrac := BitVec 17

/-- `halfBitFracAccumulator`, 2 bits (R20, R22). -/
abbrev HalfFrac := BitVec 2

/-- `ticksUntilSample`, 12 bits (R20, R24). -/
abbrev Countdown := BitVec 12

/-- `bitIndex`, 4 bits (R20, R25). -/
abbrev BitIndex := BitVec 4

/-- The count `TICKS_ONE_BIT` returns, 11 bits (R71). -/
abbrev OneCount := BitVec 11

/-- The count `TICKS_HALF_BIT` returns, 10 bits (R75). -/
abbrev HalfCount := BitVec 10

end Sys2Proof
end

