-- ==== Sys2Proof/Syntax.lean ====
section
/-! DEFINITION. The operations of spec/opcode_table.json, one constructor per row, and the stimulus notation of rules
R60 and R61. A Boolean argument is a bit of the word that the row leaves free (the table's `v`). -/

namespace Sys2Proof

/-- The twelve rows of the opcode table. Three are commands that an input word names (R53), seven are the arms a `SAMPLE`
step takes (R56), two are internal operations of the generator that no word selects (R56). -/
inductive Instr where
  /-- `RESET`, word `1v`; `v` is the level, ignored (R150). -/
  | reset (v : Bool)
  /-- `SAMPLE 0`, word `00` (R90). -/
  | sample0
  /-- `SAMPLE 1`, word `01` (R90). -/
  | sample1
  /-- Arm `IDLE_HIGH`, word `01` in Idle (R91). -/
  | idleHigh
  /-- Arm `IDLE_LOW_NOEDGE`, word `00` in Idle with no falling edge (R92). -/
  | idleLowNoEdge
  /-- Arm `IDLE_LOW_EDGE`, word `00` in Idle on a falling edge: the edge call (R93). -/
  | idleLowEdge
  /-- Arm `RX_WAIT`, word `0v`; `v` is the level, ignored (R96). -/
  | rxWait (v : Bool)
  /-- Arm `RX_DATA`, word `0v`; `v` is the level that is stored (R97). -/
  | rxData (v : Bool)
  /-- Arm `RX_STOP_OK`, word `01` at the stop-bit instant (R98). -/
  | rxStopOk
  /-- Arm `RX_STOP_ERR`, word `00` at the stop-bit instant (R99). -/
  | rxStopErr
  /-- `TICKS_ONE_BIT`, internal (R71). -/
  | ticksOneBit
  /-- `TICKS_HALF_BIT`, internal (R75). -/
  | ticksHalfBit
  deriving DecidableEq, Repr

/-- The three kinds of row of the opcode table: its formats `T`, `T+state` and `internal`. -/
inductive RowKind where
  | command
  | arm
  | internal
  deriving DecidableEq, Repr

/-- The format column of the opcode table. -/
def Instr.kind : Instr → RowKind
  | .reset _ => .command
  | .sample0 => .command
  | .sample1 => .command
  | .idleHigh => .arm
  | .idleLowNoEdge => .arm
  | .idleLowEdge => .arm
  | .rxWait _ => .arm
  | .rxData _ => .arm
  | .rxStopOk => .arm
  | .rxStopErr => .arm
  | .ticksOneBit => .internal
  | .ticksHalfBit => .internal

/-- The row is one of the seven arms of a `SAMPLE` step (R56). -/
def Instr.isArm (i : Instr) : Bool := i.kind == .arm

/-- The single-tick items of the stimulus notation: `L`, `H`, `RST` (R60). -/
inductive Pulse where
  | low
  | high
  | rst
  deriving DecidableEq, Repr

/-- One item `X*n` of a stimulus program (R60). R60 asks for `n ≥ 1`: see `StimulusItem.wellFormed`. -/
structure StimulusItem where
  pulse : Pulse
  times : Nat
  deriving DecidableEq, Repr

end Sys2Proof
end

