-- ==== Sys2Proof/WellFormed.lean ====
section
/-! DEFINITION. Which rows the decoder of an input word can answer: a row must have a word (the internal operations have
none, R56), and the word must name it without the state (an arm shares its word with `SAMPLE`; the state chooses it, R56). -/

namespace Sys2Proof

/-- Some input word stands in the row's encoding column; the internal operations of the generator have none (R56). -/
def Instr.hasInputWord (i : Instr) : Bool := i.kind != .internal

/-- The row is chosen without looking at the state: it is no arm (R56). -/
def Instr.chosenWithoutState (i : Instr) : Bool := i.kind != .arm

/-- The row is a command: an input word alone names it (R53). -/
def Instr.wellFormed (i : Instr) : Bool := i.hasInputWord && i.chosenWithoutState

/-- A stimulus item repeats its pulse at least once (R60). -/
def StimulusItem.wellFormed (x : StimulusItem) : Bool := decide (1 ≤ x.times)

end Sys2Proof
end

