-- ==== Sys2Proof/Decode.lean ====
section
/-! DEFINITION. The per-tick input word: its two fields (R52), the command it decodes to (R53, total, no value is illegal:
R58), the encoder written from the opcode table's encoding column, and the host's numbered form of the decoder. -/

namespace Sys2Proof

/-- Field `rst = cmd[1]` (R52). -/
def cmdRst (w : Cmd) : Bool := w.getLsbD 1

/-- Field `rx = cmd[0]` (R52). -/
def cmdRx (w : Cmd) : Bool := w.getLsbD 0

/-- The word `cmd = {rst, rx}` that the two pins present (R52). -/
def packCmd (rst rx : Bool) : Cmd := BitVec.ofBool rst ++ BitVec.ofBool rx

/-- The word of `SAMPLE level`: `rst = 0`, `rx = level` (R53). -/
def sampleWord (level : Bool) : Cmd := packCmd false level

/-- The command of `SAMPLE level` (R53). -/
def sampleInstr : Bool → Instr
  | false => .sample0
  | true => .sample1

/-- The command an input word names; reset takes precedence over sampling (R53). -/
def decode (w : Cmd) : Instr :=
  if cmdRst w then .reset (cmdRx w) else sampleInstr (cmdRx w)

/-- The encoding column of the opcode table; the internal operations have no word (R56). -/
def encode : Instr → Option Cmd
  | .reset v => some (packCmd true v)
  | .sample0 => some 0b00#2
  | .sample1 => some 0b01#2
  | .idleHigh => some 0b01#2
  | .idleLowNoEdge => some 0b00#2
  | .idleLowEdge => some 0b00#2
  | .rxWait v => some (packCmd false v)
  | .rxData v => some (packCmd false v)
  | .rxStopOk => some 0b01#2
  | .rxStopErr => some 0b00#2
  | .ticksOneBit => none
  | .ticksHalfBit => none

/-- Why a number is no input word. -/
inductive DecodeRejection where
  /-- The number needs more than the two bits of `cmd`: the port has two wires (R52, R59). -/
  | widerThanInputWord
  deriving DecidableEq, Repr

/-- A number presented as an input word: every number below 4 is one (R58), every other is rejected by name. -/
def inputWord (w : Nat) : Except DecodeRejection Cmd :=
  if w < 4 then .ok (BitVec.ofNat 2 w) else .error .widerThanInputWord

/-- The decoder on a number: total, rejecting by name. -/
def decodeNumber (w : Nat) : Except DecodeRejection Instr :=
  (inputWord w).map decode

/-- The host's numbering of the decoder: bit 0 of `w` is `cmd[0]`. Every format is the one 2-bit word (R59), so `nbits`
(the table's row length in whole bytes) does not matter; a bit above `cmd[1]` does not exist. -/
def decodeTableWord (_nbits w : Nat) : Option Instr := (decodeNumber w).toOption

end Sys2Proof
end

