-- ==== Sys2Proof/Config.lean ====
section
/-! DEFINITION. The build-time constants of the block (R6 to R9) and the points that spec/93_implementation_defined.md
calls a parameter fixed by decision (U10, U13). None of them can change at run time (R31). -/

namespace Sys2Proof.Config

/-- `R = SIM_SAMPLE_HZ`, samples per second (R6). -/
def sampleHz : Nat := 180000000

/-- `B = BAUD_RATE`, bits per second, and the modulus of `bitFracAccumulator` (R6, R7). -/
def baud : Nat := 115200

/-- `ONE_BASE = floor(R/B)` (R7). -/
def oneBase : Nat := sampleHz / baud

/-- `ONE_REM = R mod B` (R7). -/
def oneRem : Nat := sampleHz % baud

/-- `HALF_BASE`, a fixed number of the design (R8). -/
def halfBase : Nat := 781

/-- `HALF_DEN`, the denominator of the half-bit generator (R8). -/
def halfDen : Nat := 4

/-- `DATA_BITS`, the number of data bits of a frame (R9). -/
def dataBits : Nat := 8

/-- `IDLE_LEVEL`, logic 1 (R9). -/
def idleLevel : Bool := true

/-- The initial phase of `bitFracAccumulator`: U13's parameter, fixed by decision D4 (R34). -/
def initialBitFrac : BitFrac := 0

/-- The initial phase of `halfBitFracAccumulator`: U13's parameter, fixed by decision D4 (R34). -/
def initialHalfFrac : HalfFrac := 0

/-- U10's parameter, the switch `STOP_WRITES_LASTLEVEL`: whether the stop instant also writes `lastLevel`. Decision D6
and rule R95 fix it to no. -/
def stopWritesLastLevel : Bool := false

end Sys2Proof.Config
end

