-- ==== Sys2Proof/Machine/State.lean ====
section
/-! DEFINITION. The state of one receiver instance (R20), the event of the latest step (R54), the model's own two fields
(the count a generator operation answered, the words the host has still to present), the reasons a step can stop, and
the state after reset (R34). Plain data throughout. -/

namespace Sys2Proof.Machine

/-- The output of one step (R54). `char_data` has no value unless a character is emitted (R54, D11). -/
inductive Event where
  | none
  | char (b : Byte)
  | framingError
  deriving DecidableEq, Repr

/-- One receiver instance. The first eight fields are the record of rule R20, in its order; `event` is the step's output
(R54); `genCount` and `inputs` are the model's own (notes/assumptions/2.md and 1.md). -/
@[ext]
structure State where
  /-- Fractional ticks owed to full-bit intervals (R21). -/
  bitFracAccumulator : BitFrac
  /-- Fractional ticks owed to half-bit intervals (R22). -/
  halfBitFracAccumulator : HalfFrac
  /-- `false` is Idle, `true` is Receiving (R23). -/
  isReceiving : Bool
  /-- Countdown to the next sampling instant (R24). -/
  ticksUntilSample : Countdown
  /-- Next data bit to sample, 8 when the stop bit is awaited (R25). -/
  bitIndex : BitIndex
  /-- The data bits decoded so far, least significant first (R26). -/
  rxByte : Byte
  /-- The level of the latest Idle step (R27). -/
  lastLevel : Bool
  /-- A logic-1 sample has been seen in Idle since reset (R28). -/
  seenIdleHigh : Bool
  /-- The event of the latest step (R54); overwritten by every step, so it is a one-tick pulse (R134). -/
  event : Event
  /-- MODEL'S OWN: the count answered by a generator operation executed by itself (R71, R75); cleared by every tick step. -/
  genCount : Option OneCount
  /-- MODEL'S OWN: the input words the host presents at the coming ticks, the next tick's first (R12, R52). -/
  inputs : List Cmd
  deriving DecidableEq, Repr

/-- Nothing raises a fault: the block has no exception and every step of every state and every input word is defined
(R133, spec/93_implementation_defined.md section 1). The type has no constructor; that is safe. -/
inductive Fault where
  deriving DecidableEq, Repr

/-- Why a step has no meaning. -/
inductive Refusal where
  /-- Raised by an arm of `exec` for an instruction without a meaning; no arm raises it now. Safe: nothing is claimed. -/
  | notModelled (mnemonic : String)
  /-- Raised by an arm of rule R56 executed by its own name in a state its condition excludes: no such step exists (R57).
  A step never raises it. Safe: nothing is claimed. -/
  | armNotSelected
  /-- Raised by `step` when the host presents no input word for the tick: the spec says nothing of such a run (R154, U11).
  Safe: nothing is claimed. -/
  | noInputWord
  deriving DecidableEq, Repr

/-- The answer of every meaning. -/
abbrev Answer := Host.Outcome State Fault Refusal

/-- The state after reset, field by field as rule R34 gives it; no event yet, no count, nothing presented by the host. -/
def State.reset : State where
  bitFracAccumulator := Config.initialBitFrac
  halfBitFracAccumulator := Config.initialHalfFrac
  isReceiving := false
  ticksUntilSample := 0
  bitIndex := 0
  rxByte := 0
  lastLevel := Config.idleLevel
  seenIdleHigh := false
  event := .none
  genCount := none
  inputs := []

end Sys2Proof.Machine
end

