-- ==== Sys2Proof/Machine/Ops.lean ====
section
/-! DEFINITION. The named operations over the state: one write `s.f <- v` per field (R11), ending a step with its event
(R11, R54), reading the host's next input word (R51, R52), writing one bit of a byte (R97), and the output wires (R50).
There is no memory operation, because there is no memory (R40), and no operation that takes an exception or returns from
one, because the block has neither (R133). -/

namespace Sys2Proof.Machine

/-- `s.bitFracAccumulator <- v` (R11). -/
def State.setBitFrac (v : BitFrac) (s : State) : State := { s with bitFracAccumulator := v }

/-- `s.halfBitFracAccumulator <- v` (R11). -/
def State.setHalfFrac (v : HalfFrac) (s : State) : State := { s with halfBitFracAccumulator := v }

/-- `s.isReceiving <- v` (R11). -/
def State.setReceiving (v : Bool) (s : State) : State := { s with isReceiving := v }

/-- `s.ticksUntilSample <- v` (R11). -/
def State.setTicks (v : Countdown) (s : State) : State := { s with ticksUntilSample := v }

/-- `s.bitIndex <- v` (R11). -/
def State.setBitIndex (v : BitIndex) (s : State) : State := { s with bitIndex := v }

/-- `s.rxByte <- v` (R11). -/
def State.setRxByte (v : Byte) (s : State) : State := { s with rxByte := v }

/-- `s.lastLevel <- v` (R11). -/
def State.setLastLevel (v : Bool) (s : State) : State := { s with lastLevel := v }

/-- `s.seenIdleHigh <- v` (R11). -/
def State.setSeenIdleHigh (v : Bool) (s : State) : State := { s with seenIdleHigh := v }

/-- A step ends with its event (R11, R54). No generator count leaves a tick step, so the model's own field is cleared. -/
def State.emit (e : Event) (s : State) : State := { s with event := e, genCount := none }

/-- A generator operation executed by itself answers its count (R11: it "returns its value"). -/
def State.answerCount (n : OneCount) (s : State) : State := { s with genCount := some n }

/-- The words the host has still to present. -/
def State.setInputs (ws : List Cmd) (s : State) : State := { s with inputs := ws }

/-- Reading the pins of one tick (R51): the next input word and the state with that word consumed. -/
def fetch (s : State) : Option (Cmd × State) :=
  match s.inputs with
  | [] => none
  | w :: ws => some (w, s.setInputs ws)

/-- The list of coming input words with its head replaced by the word whose number is `w`; a number that is no input
word leaves nothing to present. -/
def presentWord (w : Nat) (ws : List Cmd) : List Cmd :=
  match inputWord w with
  | .ok c => c :: ws.tail
  | .error _ => []

/-- `b[k] <- level`, the other bits unchanged (R97; bit 0 is the least significant, R10, R42). -/
def writeBit (b : Byte) (k : Nat) (level : Bool) : Byte :=
  (b &&& ~~~(1#8 <<< k)) ||| ((BitVec.ofBool level).zeroExtend 8 <<< k)

/-- The output wire `char_valid` (R50, R54). -/
def Event.charValid : Event → Bool
  | .none => false
  | .char _ => true
  | .framingError => false

/-- The output wire `frame_err` (R50, R54). -/
def Event.frameErr : Event → Bool
  | .none => false
  | .char _ => false
  | .framingError => true

/-- The output wires `char_data`: no value unless a character is emitted (R50, R54, D11). -/
def Event.charData : Event → Option Byte
  | .none => Option.none
  | .char b => some b
  | .framingError => Option.none

end Sys2Proof.Machine
end

