-- ==== Sys2Proof/Machine/Flags.lean ====
section
/-! DEFINITION. The flag computations: the block's flags are `isReceiving`, `seenIdleHigh` and `lastLevel` (R32), and the
generator's two carries, which are used within their own step and not stored (R32, R71, R75). -/

namespace Sys2Proof.Machine

/-- The edge test of Idle step 2: `seenIdleHigh = 1 and lastLevel = 1 and level = 0` (R90, R93). -/
def startEdge (s : State) (level : Bool) : Bool := s.seenIdleHigh && s.lastLevel && !level

/-- Idle step 1: a logic-1 sample sets `seenIdleHigh`; a logic-0 sample leaves it (R90, R28). -/
def noteIdleHigh (level : Bool) (s : State) : State :=
  if level then s.setSeenIdleHigh true else s

/-- What the stop instant leaves in `lastLevel`: the old value, as decision D6 fixes the switch (R95, U10). -/
def lastLevelAfterStop (level : Bool) (s : State) : Bool :=
  if Config.stopWritesLastLevel then level else s.lastLevel

/-- The exact sum `bitFracAccumulator + ONE_REM`, an 18-bit intermediate that is never stored (R71, R21). The
constant stands first so that a proof can leave the sum unevaluated. -/
def oneBitSum (a : BitFrac) : Nat := Config.oneRem + a.toNat

/-- The carry of `TICKS_ONE_BIT`: the sum reaches or exceeds `B` (R71). -/
def oneBitCarry (a : BitFrac) : Bool := decide (Config.baud ≤ oneBitSum a)

/-- The counter of `TICKS_HALF_BIT` after its advance (R75). -/
def halfBitNext (h : HalfFrac) : HalfFrac := BitVec.ofNat 2 ((h.toNat + 1) % Config.halfDen)

/-- The wrap of `TICKS_HALF_BIT`, tested on the new value (R75). -/
def halfBitWrap (h : HalfFrac) : Bool := halfBitNext h == 0

end Sys2Proof.Machine
end

