-- ==== Sys2Proof/Machine/Generator.lean ====
section
/-! DEFINITION. The Tick-Interval Generator: `TICKS_ONE_BIT` (R71) and `TICKS_HALF_BIT` (R75), as the operations the Frame
State Machine invokes (R79) and as meanings of their own. -/

namespace Sys2Proof.Machine

/-- The count of `TICKS_ONE_BIT`: one extra tick on a carry (R71). -/
def oneBitCount (a : BitFrac) : OneCount :=
  BitVec.ofNat 11 (if oneBitCarry a then Config.oneBase + 1 else Config.oneBase)

/-- The accumulator after `TICKS_ONE_BIT`: the sum, less `B` on a carry (R71). -/
def oneBitNext (a : BitFrac) : BitFrac :=
  BitVec.ofNat 17 (if oneBitCarry a then oneBitSum a - Config.baud else oneBitSum a)

/-- The count of `TICKS_HALF_BIT`: one extra tick when the counter wraps (R75). -/
def halfBitCount (h : HalfFrac) : HalfCount :=
  BitVec.ofNat 10 (if halfBitWrap h then Config.halfBase + 1 else Config.halfBase)

/-- `TICKS_ONE_BIT()`: the count it returns and the state it leaves (R71). -/
def ticksOneBit (s : State) : OneCount × State :=
  (oneBitCount s.bitFracAccumulator, s.setBitFrac (oneBitNext s.bitFracAccumulator))

/-- `TICKS_HALF_BIT()`: the count it returns and the state it leaves (R75). -/
def ticksHalfBit (s : State) : HalfCount × State :=
  (halfBitCount s.halfBitFracAccumulator, s.setHalfFrac (halfBitNext s.halfBitFracAccumulator))

/-- Row `TICKS_ONE_BIT` (R71). -/
def execTicksOneBit (s : State) : Answer :=
  .next ((ticksOneBit s).2.answerCount (ticksOneBit s).1)

/-- Row `TICKS_HALF_BIT` (R75); its 10-bit count is widened with zeros (R10). -/
def execTicksHalfBit (s : State) : Answer :=
  .next ((ticksHalfBit s).2.answerCount ((ticksHalfBit s).1.zeroExtend 11))

end Sys2Proof.Machine
end

