-- ==== Sys2Proof/Machine/Frame.lean ====
section
/-! DEFINITION. The Frame State Machine's one operation `SAMPLE level`, as the pseudocode of rule R90 writes it: the Idle
half, the Receiving half, and the operations both this file and Machine/Arms.lean are built from. -/

namespace Sys2Proof.Machine

/-- The edge call's body: enter Receiving, clear `bitIndex` and `rxByte`, schedule the first instant at
`TICKS_HALF_BIT() + TICKS_ONE_BIT()`, the sum exact (R90 Idle step 2, R93, R10). -/
def startFrame (s : State) : State :=
  let s₁ := s.setReceiving true |>.setBitIndex 0 |>.setRxByte 0
  let half := ticksHalfBit s₁
  let one := ticksOneBit half.2
  one.2.setTicks (BitVec.ofNat 12 (half.1.toNat + one.1.toNat))

/-- Receiving step 1: the countdown goes down by one (R90, R96). -/
def waitTick (s : State) : State :=
  s.setTicks (BitVec.ofNat 12 (s.ticksUntilSample.toNat - 1))

/-- A data-bit instant: store the level at `rxByte[bitIndex]`, advance `bitIndex`, schedule the next instant (R90, R97). -/
def dataInstant (level : Bool) (s : State) : State :=
  let s₁ := s.setRxByte (writeBit s.rxByte s.bitIndex.toNat level)
    |>.setBitIndex (BitVec.ofNat 4 (s.bitIndex.toNat + 1))
  let one := ticksOneBit s₁
  one.2.setTicks (BitVec.ofNat 12 one.1.toNat)

/-- A stop-bit instant's writes: back to Idle, whatever the level (R90, R98, R99, R95). -/
def stopInstant (level : Bool) (s : State) : State :=
  s.setReceiving false |>.setLastLevel (lastLevelAfterStop level s)

/-- The event of a stop-bit instant (R90, R98, R99). -/
def stopEvent (level : Bool) (s : State) : Event :=
  if level then .char s.rxByte else .framingError

/-- The Idle half of rule R90. -/
def sampleIdle (level : Bool) (s : State) : State :=
  let s₁ := noteIdleHigh level s
  let s₂ := if startEdge s₁ level then startFrame s₁ else s₁
  s₂.setLastLevel level |>.emit .none

/-- The Receiving half of rule R90. -/
def sampleReceiving (level : Bool) (s : State) : State :=
  if 0 < s.ticksUntilSample.toNat then (waitTick s).emit .none
  else if s.bitIndex.toNat < Config.dataBits then (dataInstant level s).emit .none
  else (stopInstant level s).emit (stopEvent level s)

/-- `SAMPLE(level)` (R90). -/
def sample (level : Bool) (s : State) : State :=
  if s.isReceiving then sampleReceiving level s else sampleIdle level s

/-- Row `SAMPLE 0` (R90). -/
def execSample0 (s : State) : Answer := .next (sample false s)

/-- Row `SAMPLE 1` (R90). -/
def execSample1 (s : State) : Answer := .next (sample true s)

end Sys2Proof.Machine
end

