-- ==== Sys2Proof/Machine/Operands.lean ====
section
/-! DEFINITION. The operand forms: the level of a `SAMPLE` is the bit `cmd[0]` as it is (R53), and an arm is chosen by the
level and the state (R56). `armGuard` is rule R56's table of conditions; `selectArm` chooses by them; `decodeIn` is the
decoder built from the table that rule R57 speaks of. -/

namespace Sys2Proof.Machine

/-- At a sampling instant in Receiving: `isReceiving = 1` and `ticksUntilSample = 0` (R56). -/
def atInstant (s : State) : Bool := s.isReceiving && decide (s.ticksUntilSample.toNat = 0)

/-- At a data sampling instant (R56, row `RX_DATA`). -/
def atDataInstant (s : State) : Bool := atInstant s && decide (s.bitIndex.toNat < Config.dataBits)

/-- At the stop-bit instant; the test is `bitIndex >= 8`, so 9 to 15 pass it too (R56, R90, D15). -/
def atStopInstant (s : State) : Bool := atInstant s && decide (Config.dataBits ≤ s.bitIndex.toNat)

/-- The state condition of each row of the opcode table (R56). A command has none (R53); an internal operation is invoked
by other rules, in any state (R79). -/
def armGuard : Instr → State → Bool
  | .reset _, _ => true
  | .sample0, _ => true
  | .sample1, _ => true
  | .idleHigh, s => !s.isReceiving
  | .idleLowNoEdge, s => !s.isReceiving && !(s.seenIdleHigh && s.lastLevel)
  | .idleLowEdge, s => !s.isReceiving && s.seenIdleHigh && s.lastLevel
  | .rxWait _, s => s.isReceiving && decide (0 < s.ticksUntilSample.toNat)
  | .rxData _, s => atDataInstant s
  | .rxStopOk, s => atStopInstant s
  | .rxStopErr, s => atStopInstant s
  | .ticksOneBit, _ => true
  | .ticksHalfBit, _ => true

/-- The one arm a `SAMPLE level` step takes (R56, R57). -/
def selectArm (level : Bool) (s : State) : Instr :=
  if s.isReceiving then
    if 0 < s.ticksUntilSample.toNat then .rxWait level
    else if s.bitIndex.toNat < Config.dataBits then .rxData level
    else if level then .rxStopOk else .rxStopErr
  else if level then .idleHigh
  else if s.seenIdleHigh && s.lastLevel then .idleLowEdge
  else .idleLowNoEdge

/-- The row of the opcode table that an input word takes in a state: `RESET`, or the selected arm (R53, R56, R57). -/
def decodeIn (s : State) (w : Cmd) : Instr :=
  if cmdRst w then .reset (cmdRx w) else selectArm (cmdRx w) s

/-- The answer of an arm executed by its own name: its effect in a state that selects it; in any other state no such
step exists (R56, R57), and it is refused by name. -/
def whenSelected (i : Instr) (s t : State) : Answer :=
  if armGuard i s then .next t else .refused .armNotSelected

end Sys2Proof.Machine
end

