-- ==== Sys2Proof/Machine/Arms.lean ====
section
/-! DEFINITION. The seven arms of a `SAMPLE` step, each from its own rule (R91 to R93, R96 to R99). An arm executed by its
name in a state its condition excludes is refused by name (notes/assumptions/3.md); `step` never reaches that. -/

namespace Sys2Proof.Machine

/-- Arm `IDLE_HIGH` (R91). -/
def execIdleHigh (s : State) : Answer :=
  whenSelected .idleHigh s (s.setSeenIdleHigh true |>.setLastLevel true |>.emit .none)

/-- Arm `IDLE_LOW_NOEDGE` (R92). -/
def execIdleLowNoEdge (s : State) : Answer :=
  whenSelected .idleLowNoEdge s (s.setLastLevel false |>.emit .none)

/-- Arm `IDLE_LOW_EDGE`, the edge call (R93). -/
def execIdleLowEdge (s : State) : Answer :=
  whenSelected .idleLowEdge s (startFrame s |>.setLastLevel false |>.emit .none)

/-- Arm `RX_WAIT`; the level is ignored (R96). -/
def execRxWait (v : Bool) (s : State) : Answer :=
  whenSelected (.rxWait v) s (waitTick s |>.emit .none)

/-- Arm `RX_DATA` (R97). -/
def execRxData (v : Bool) (s : State) : Answer :=
  whenSelected (.rxData v) s (dataInstant v s |>.emit .none)

/-- Arm `RX_STOP_OK` (R98). -/
def execRxStopOk (s : State) : Answer :=
  whenSelected .rxStopOk s (stopInstant true s |>.emit (.char s.rxByte))

/-- Arm `RX_STOP_ERR` (R99). -/
def execRxStopErr (s : State) : Answer :=
  whenSelected .rxStopErr s (stopInstant false s |>.emit .framingError)

end Sys2Proof.Machine
end

