-- ==== Sys2Proof/Machine/Reset.lean ====
section
/-! DEFINITION. `RESET` (R150). -/

namespace Sys2Proof.Machine

/-- The eight writes of rule R150. What the host presents at the coming ticks is not the block's and stays. -/
def restart (s : State) : State :=
  s.setBitFrac Config.initialBitFrac
    |>.setHalfFrac Config.initialHalfFrac
    |>.setReceiving false
    |>.setTicks 0
    |>.setBitIndex 0
    |>.setRxByte 0
    |>.setLastLevel Config.idleLevel
    |>.setSeenIdleHigh false

/-- Row `RESET`: the level is ignored, the event is `None` (R150). -/
def execReset (_v : Bool) (s : State) : Answer := .next ((restart s).emit .none)

end Sys2Proof.Machine
end

