-- ==== Sys2Proof/Machine/Dispatch.lean ====
section
/-! DEFINITION. One arm per row of the opcode table, each one call of the row's meaning. -/

namespace Sys2Proof.Machine

def exec (i : Instr) (s : State) : Host.Outcome State Fault Refusal :=
  match i with
  | .reset v => Sys2Proof.Machine.execReset v s
  | .sample0 => Sys2Proof.Machine.execSample0 s
  | .sample1 => Sys2Proof.Machine.execSample1 s
  | .idleHigh => Sys2Proof.Machine.execIdleHigh s
  | .idleLowNoEdge => Sys2Proof.Machine.execIdleLowNoEdge s
  | .idleLowEdge => Sys2Proof.Machine.execIdleLowEdge s
  | .rxWait v => Sys2Proof.Machine.execRxWait v s
  | .rxData v => Sys2Proof.Machine.execRxData v s
  | .rxStopOk => Sys2Proof.Machine.execRxStopOk s
  | .rxStopErr => Sys2Proof.Machine.execRxStopErr s
  | .ticksOneBit => Sys2Proof.Machine.execTicksOneBit s
  | .ticksHalfBit => Sys2Proof.Machine.execTicksHalfBit s

end Sys2Proof.Machine
end

