-- ==== Sys2Proof/Machine/Step.lean ====
section
/-! DEFINITION. One step: the response to one tick (R12, R51). -/

namespace Sys2Proof.Machine

/-- Read the tick's input word and execute the command it names (R51, R53). A tick for which the host presents no word
is outside the spec (R154, U11) and refused by name. -/
def step (s : State) : Host.Outcome State Fault Refusal :=
  match fetch s with
  | none => .refused .noInputWord
  | some (w, t) => exec (decode w) t

/-- The state with the word whose number is `w` on the pins at the coming tick; the words of later ticks and every field
of the block stay. Every format is one 2-bit word (R59), so `nbits` does not matter. -/
def State.withFetchWord (s : State) (_nbits w : Nat) : State := s.setInputs (presentWord w s.inputs)

end Sys2Proof.Machine
end

