-- ==== Sys2Proof/Machine/Instances.lean ====
section
/-! DEFINITION. Several receiver instances (R36, R138): each is a whole `State` of its own, the two generator accumulators
included, and a tick of one instance's clock steps that instance alone. -/

namespace Sys2Proof.Machine

/-- One tick of instance `k`; `none` where there is no such instance or its step stops. -/
def stepInstance (k : Nat) (b : List State) : Option (List State) :=
  match b[k]? with
  | none => none
  | some s =>
    match step s with
    | .next t => some (b.set k t)
    | .fault _ => none
    | .refused _ => none

end Sys2Proof.Machine
end

