-- ==== Sys2Proof/Machine/Stimulus.lean ====
section
/-! DEFINITION. The stimulus notation: the items of rule R60, the macros of rule R61, and a program's encoding, one 2-bit
word per tick (R62). -/

namespace Sys2Proof

/-- The word of one pulse (R60): `L = 00`, `H = 01`, `RST = 10`. -/
def Pulse.word : Pulse → Cmd
  | .low => 0b00#2
  | .high => 0b01#2
  | .rst => 0b10#2

/-- `X*n` stands for `n` copies of the word of `X` (R60). -/
def StimulusItem.words (x : StimulusItem) : List Cmd := List.replicate x.times x.pulse.word

/-- The encoding of a stimulus program: its words, one per tick, in order (R62). -/
def stimulusWords (p : List StimulusItem) : List Cmd := p.flatMap StimulusItem.words

/-- `IDLE n` expands to `H*n` (R61). -/
def idleItems (n : Nat) : List StimulusItem := [⟨.high, n⟩]

/-- `len(k)`, the number of ticks of frame bit `k` (R61). -/
def bitLen (k : Nat) : Nat := (k + 1) * 3125 / 2 - k * 3125 / 2

/-- `BIT(v, k)` expands to `V*len(k)` (R61). -/
def bitItems (v : Bool) (k : Nat) : List StimulusItem := [⟨if v then .high else .low, bitLen k⟩]

/-- `FRAME(b)` (`stop = true`) and `FRAME(b, stop=0)` (`stop = false`): start bit, eight data bits least significant
first, stop bit (R61). -/
def frameItems (b : Byte) (stop : Bool) : List StimulusItem :=
  bitItems false 0 ++ bitItems (b.getLsbD 0) 1 ++ bitItems (b.getLsbD 1) 2 ++ bitItems (b.getLsbD 2) 3 ++
    bitItems (b.getLsbD 3) 4 ++ bitItems (b.getLsbD 4) 5 ++ bitItems (b.getLsbD 5) 6 ++ bitItems (b.getLsbD 6) 7 ++
    bitItems (b.getLsbD 7) 8 ++ bitItems stop 9

end Sys2Proof
end

