-- ==== Sys2Proof/Safety.lean ====
section
/-! DEFINITION. The terms the statements use: runs and their events, the conditions of rule R35 on reachable states, the
schedule of a frame (R94, R100), repeated calls of the generator (R72 to R77), and rule R90's paths written out in
numerals. -/

namespace Sys2Proof.Machine

/-- `n` steps, stopping at the first refusal. -/
def run : Nat → State → Answer
  | 0, s => .next s
  | n + 1, s =>
    match step s with
    | .next t => run n t
    | .fault r => .fault r
    | .refused r => .refused r

/-- The events of the first `n` steps, in step order (R45, R54); shorter where a step stops. -/
def eventTrace : Nat → State → List Event
  | 0, _ => []
  | n + 1, s =>
    match step s with
    | .next t => t.event :: eventTrace n t
    | .fault _ => []
    | .refused _ => []

/-- The events a host takes notice of: `None` left out (R55). -/
def visibleEvents (n : Nat) (s : State) : List Event := (eventTrace n s).filter (· != .none)

/-- The words of a run of `SAMPLE` steps with these levels (R53). -/
def sampleWords (levels : List Bool) : List Cmd := levels.map sampleWord

/-- The conditions of rule R35 that speak of one state, and rule R27's consequence for a state in Receiving. Item 2 of
R35 holds by the register's width. -/
structure Inv (s : State) : Prop where
  /-- R35 item 1. -/
  phase : s.bitFracAccumulator = 0 ∨ s.bitFracAccumulator = 57600
  /-- R35 items 3 and 6. -/
  seen : s.isReceiving = true → s.seenIdleHigh = true
  /-- R35 item 3. -/
  countdown : s.isReceiving = true → s.ticksUntilSample.toNat ≤ 2345
  /-- R35 item 4. -/
  unsampled : s.isReceiving = true → ∀ k, s.bitIndex.toNat ≤ k → k < 8 → s.rxByte.getLsbD k = false
  /-- R35 item 5. -/
  index : s.bitIndex.toNat ≤ 8
  /-- R35 item 7. -/
  stopCountdown : s.isReceiving = true → s.bitIndex.toNat = 8 → s.ticksUntilSample.toNat ≤ 1563
  /-- R27: from the edge call to the first Idle step after the frame, `lastLevel` is the edge call's 0. -/
  edgeLevel : s.isReceiving = true → s.lastLevel = false

/-- The two states agree on what the spec gives the block: the eight fields of rule R20 and the event of rule R54. The
model's own fields `genCount` and `inputs` are left out. -/
structure SameBlock (t u : State) : Prop where
  bitFracAccumulator : t.bitFracAccumulator = u.bitFracAccumulator
  halfBitFracAccumulator : t.halfBitFracAccumulator = u.halfBitFracAccumulator
  isReceiving : t.isReceiving = u.isReceiving
  ticksUntilSample : t.ticksUntilSample = u.ticksUntilSample
  bitIndex : t.bitIndex = u.bitIndex
  rxByte : t.rxByte = u.rxByte
  lastLevel : t.lastLevel = u.lastLevel
  seenIdleHigh : t.seenIdleHigh = u.seenIdleHigh
  event : t.event = u.event

/-- Executing the row in `s` completes and leaves the block of `u`: every field of the block not changed in `u` is
unchanged. -/
def Leaves (i : Instr) (s u : State) : Prop := ∃ t, exec i s = .next t ∧ SameBlock t u

/-- Idle, and a logic-0 sample would be a start edge (R93). -/
def EdgeReady (s : State) : Prop :=
  s.isReceiving = false ∧ s.seenIdleHigh = true ∧ s.lastLevel = true

/-- `t_k - e`: the offset of the `k`-th sampling instant of a frame from its edge call, from the accumulators before the
edge call: `t_0 = e + T_0 + 1` (R94) and `t_(k+1) = t_k + T_k + 1` (R100). -/
def instantOffset (a : BitFrac) (h : HalfFrac) : Nat → Nat
  | 0 => (halfBitCount h).toNat + (oneBitCount a).toNat + 1
  | k + 1 => instantOffset a h k + (oneBitCount (oneBitNext^[k + 1] a)).toNat + 1

/-- The byte whose bit `k` is `v k`: `sum over k in 0..7 of v(k) * 2^k` (R42). -/
def byteOfLevels (v : Nat → Bool) : Byte :=
  BitVec.ofNat 8 ((List.range 8).map fun k => (v k).toNat * 2 ^ k).sum

/-- Some step of the sequence has level 0 just after a step with level 1. -/
def hasFall : List Bool → Bool
  | [] => false
  | [_] => false
  | a :: b :: l => (a && !b) || hasFall (b :: l)

/-- The count a generator operation left in the state; 0 where there is none. -/
def answeredCount (s : State) : Nat :=
  match s.genCount with
  | some n => n.toNat
  | none => 0

/-- `n` successive calls of a generator row: the counts it returned, in order, and the last state. -/
def generate (i : Instr) : Nat → State → Option (List Nat × State)
  | 0, s => some ([], s)
  | n + 1, s =>
    match exec i s with
    | .next t => (generate i n t).map fun p => (answeredCount t :: p.1, p.2)
    | .fault _ => none
    | .refused _ => none

/-- Rule R71's count in numerals. -/
def spelledOneCount (s : State) : Nat := if 115200 ≤ 57600 + s.bitFracAccumulator.toNat then 1563 else 1562

/-- Rule R71's accumulator in numerals. -/
def spelledOneNext (s : State) : Nat :=
  if 115200 ≤ 57600 + s.bitFracAccumulator.toNat then 57600 + s.bitFracAccumulator.toNat - 115200
  else 57600 + s.bitFracAccumulator.toNat

/-- Rule R75's count in numerals. -/
def spelledHalfCount (s : State) : Nat := if (s.halfBitFracAccumulator.toNat + 1) % 4 = 0 then 782 else 781

/-- What rule R93 says the edge call leaves, in numerals. -/
def spelledEdge (s : State) : State :=
  { s with
    isReceiving := true
    bitIndex := 0
    rxByte := 0
    ticksUntilSample := BitVec.ofNat 12 (spelledHalfCount s + spelledOneCount s)
    bitFracAccumulator := BitVec.ofNat 17 (spelledOneNext s)
    halfBitFracAccumulator := s.halfBitFracAccumulator + 1
    lastLevel := false
    event := .none }

/-- What rule R96 says a waiting step leaves. -/
def spelledWait (s : State) : State :=
  { s with ticksUntilSample := s.ticksUntilSample - 1, event := .none }

/-- What rule R97 says of the byte `b` it leaves: bit `bitIndex` is the level, the other bits are unchanged. -/
def StoresBit (level : Bool) (s : State) (b : Byte) : Prop :=
  ∀ k, k < 8 → b.getLsbD k = if k = s.bitIndex.toNat then level else s.rxByte.getLsbD k

/-- What rule R97 says a data instant leaves beside the byte, in numerals; the byte is given. -/
def spelledData (b : Byte) (s : State) : State :=
  { s with
    rxByte := b
    bitIndex := s.bitIndex + 1
    ticksUntilSample := BitVec.ofNat 12 (spelledOneCount s)
    bitFracAccumulator := BitVec.ofNat 17 (spelledOneNext s)
    event := .none }

/-- One frame of a stream: the byte, the level of its stop-bit period, and how many ticks of logic 1 follow it. -/
structure StreamFrame where
  byte : Byte
  stop : Bool
  gap : Nat
  deriving DecidableEq, Repr

/-- The words of a stream frame: `FRAME(b)` or `FRAME(b, stop=0)`, then `H*gap` (R61). -/
def StreamFrame.words (f : StreamFrame) : List Cmd :=
  stimulusWords (frameItems f.byte f.stop ++ idleItems f.gap)

/-- The event a stream frame is to produce (R98, R99). -/
def StreamFrame.event (f : StreamFrame) : Event := if f.stop then .char f.byte else .framingError

end Sys2Proof.Machine
end

