-- ==== Sys2Proof/Certificates/Slice0/Obligations.lean ====
section
/-! DEFINITION. The statements for the provers. Each docstring names the rule of spec/ it formalises. The fields
`genCount` and `inputs` of the state are the model's own (notes/assumptions/2.md and 1.md): `Leaves` and `SameBlock` leave
them out, and what a statement does say of them is the model's choice. -/

open Sys2Proof Sys2Proof.Machine

/-! ### Decoding and the arms -/

/-- Derived from R53: bit 1 set is `RESET` whatever the level, `00` is `SAMPLE 0`, `01` is `SAMPLE 1`. "Reset takes
precedence over sampling", which makes `11` a `RESET`, is the spec's decision D3. -/
def Obligations.InputWordDecodesToOneOfThreeCommands : Prop :=
  (∀ v : Bool, decode (0b10#2 ||| (BitVec.ofBool v).zeroExtend 2) = .reset v) ∧
    decode 0b00#2 = .sample0 ∧ decode 0b01#2 = .sample1

/-- R52, R53, R58, derived: a command's word decodes to that command with its level bit, every one of the four words
is the word of the command it decodes to, and a row the word alone does not name is not what the decoder answers. That
`11` is `RESET` too is the spec's decision D3 (R53). -/
def Obligations.CommandWordsRoundTrip : Prop :=
  (∀ i : Instr, i.wellFormed = true → (encode i).map decode = some i) ∧
    (∀ w : Cmd, encode (decode w) = some w ∧ (decode w).wellFormed = true) ∧
    (∀ i : Instr, i.wellFormed = false → ∀ w : Cmd, decode w ≠ i)

/-- Derived from R52 and R53 (a sanity statement): words written out by hand. That 4 is rejected is the model's choice
(notes/assumptions/10.md). That `11` is `RESET` too is the spec's decision D3 (R53). -/
def Obligations.WordsByHandDecode : Prop :=
  decodeTableWord 8 0 = some .sample0 ∧ decodeTableWord 8 1 = some .sample1 ∧
    decodeTableWord 8 2 = some (.reset false) ∧ decodeTableWord 8 3 = some (.reset true) ∧
    decodeTableWord 8 4 = none

/-- Derived from R56 and decision D15: the state condition of each of the seven arms, and the word each arm has. -/
def Obligations.ArmConditionsAreTheTable : Prop :=
  ∀ (s : State) (v : Bool),
    ((armGuard .idleHigh s = true ↔ s.isReceiving = false) ∧ encode .idleHigh = some 1#2) ∧
    ((armGuard .idleLowNoEdge s = true ↔
        s.isReceiving = false ∧ ¬(s.seenIdleHigh = true ∧ s.lastLevel = true)) ∧ encode .idleLowNoEdge = some 0#2) ∧
    ((armGuard .idleLowEdge s = true ↔
        s.isReceiving = false ∧ s.seenIdleHigh = true ∧ s.lastLevel = true) ∧ encode .idleLowEdge = some 0#2) ∧
    ((armGuard (.rxWait v) s = true ↔ s.isReceiving = true ∧ 0 < s.ticksUntilSample.toNat) ∧
        encode (.rxWait v) = some (sampleWord v)) ∧
    ((armGuard (.rxData v) s = true ↔
        s.isReceiving = true ∧ s.ticksUntilSample.toNat = 0 ∧ s.bitIndex.toNat < 8) ∧
        encode (.rxData v) = some (sampleWord v)) ∧
    ((armGuard .rxStopOk s = true ↔
        s.isReceiving = true ∧ s.ticksUntilSample.toNat = 0 ∧ 8 ≤ s.bitIndex.toNat) ∧ encode .rxStopOk = some 1#2) ∧
    ((armGuard .rxStopErr s = true ↔
        s.isReceiving = true ∧ s.ticksUntilSample.toNat = 0 ∧ 8 ≤ s.bitIndex.toNat) ∧ encode .rxStopErr = some 0#2) ∧
    encode .ticksOneBit = none ∧ encode .ticksHalfBit = none

/-- R57, which the spec derives from R56, with its decision D15: in every state, reachable or not, and for every level
exactly one arm has that level's word and a true condition; it is the arm the decoder over state and word answers. A
`bitIndex` of 9 to 15 takes a stop arm. -/
def Obligations.ExactlyOneArmIsSelected : Prop :=
  (∀ (s : State) (level : Bool) (i : Instr),
    i.isArm = true ∧ encode i = some (sampleWord level) ∧ armGuard i s = true ↔ i = decodeIn s (sampleWord level)) ∧
  (∀ (s : State) (level : Bool), s.isReceiving = true → s.ticksUntilSample.toNat = 0 → 9 ≤ s.bitIndex.toNat →
    decodeIn s (sampleWord level) = if level then .rxStopOk else .rxStopErr)

/-- R90 against R91 to R93 and R96 to R99 (R101, "a step takes exactly one arm"): the whole-step pseudocode does what
the one selected arm does, in every state. That a step at an instant with a `bitIndex` of 9 to 15 takes a stop arm is
the spec's decision D15 (notes/assumptions/7.md). -/
def Obligations.SampleDoesWhatItsSelectedArmDoes : Prop :=
  ∀ (s : State) (level : Bool), exec (sampleInstr level) s = exec (decodeIn s (sampleWord level)) s

/-- The model's choice (notes/assumptions/3.md), from R56: an arm executed by its own name in a state its condition
excludes is refused by name; in a state that selects it, it completes. That a step at an instant with a `bitIndex` of
9 to 15 takes a stop arm is the spec's decision D15 (notes/assumptions/7.md). -/
def Obligations.ArmRunsExactlyWhereSelected : Prop :=
  ∀ (i : Instr) (s : State), i.isArm = true →
    (armGuard i s = false → exec i s = .refused .armNotSelected) ∧
    (armGuard i s = true → ∃ t, exec i s = .next t ∧ t.inputs = s.inputs)

/-! ### The step -/

/-- R51, R53: one step reads one input word and executes the command it decodes to; the next step sees the state that
leaves, with the remaining words (R45). With no word presented the step is refused: the model's choice,
notes/assumptions/1.md. -/
def Obligations.StepRunsTheDecodedWord : Prop :=
  (∀ (s : State) (w : Cmd) (ws : List Cmd), s.inputs = w :: ws → step s = exec (decode w) { s with inputs := ws }) ∧
  (∀ s : State, s.inputs = [] → step s = .refused .noInputWord)

/-- Derived from R57, R133 and R140: wherever the host presents a word the step completes, in every state, and
consumes that word only. That a step at an instant with a `bitIndex` of 9 to 15 takes a stop arm is the spec's
decision D15 (notes/assumptions/7.md). -/
def Obligations.StepAlwaysCompletesOnAWord : Prop :=
  ∀ (s : State) (w : Cmd) (ws : List Cmd), s.inputs = w :: ws → ∃ t, step s = .next t ∧ t.inputs = ws

/-- Derived from R90: the whole step `SAMPLE level`, every path, in numerals. In the last path, that a `bitIndex` of 9 to
15 is a stop instant is the spec's decision D15 (notes/assumptions/7.md), and that `lastLevel` and `seenIdleHigh` stay as
they were is its decision D6 (R95, notes/assumptions/6.md). -/
def Obligations.SampleFollowsItsPseudocode : Prop :=
  ∀ (s : State) (level : Bool),
    (s.isReceiving = false → level = true →
      Leaves (sampleInstr level) s { s with seenIdleHigh := true, lastLevel := true, event := .none }) ∧
    (s.isReceiving = false → level = false → ¬(s.seenIdleHigh = true ∧ s.lastLevel = true) →
      Leaves (sampleInstr level) s { s with lastLevel := false, event := .none }) ∧
    (s.isReceiving = false → level = false → s.seenIdleHigh = true → s.lastLevel = true →
      Leaves (sampleInstr level) s (spelledEdge s)) ∧
    (s.isReceiving = true → 0 < s.ticksUntilSample.toNat →
      Leaves (sampleInstr level) s (spelledWait s)) ∧
    (s.isReceiving = true → s.ticksUntilSample.toNat = 0 → s.bitIndex.toNat < 8 →
      ∃ b, StoresBit level s b ∧ Leaves (sampleInstr level) s (spelledData b s)) ∧
    (s.isReceiving = true → s.ticksUntilSample.toNat = 0 → 8 ≤ s.bitIndex.toNat →
      Leaves (sampleInstr level) s
        { s with isReceiving := false, event := if level then .char s.rxByte else .framingError })

/-- Derived; the model's choice (notes/assumptions/1.md and 2.md): no row touches the words the host has still to
present; a row executed as a tick leaves no count, a generator row leaves the count it returned. -/
def Obligations.ModelsOwnFieldsFollowTheirLogEntries : Prop :=
  ∀ (i : Instr) (s t : State), exec i s = .next t →
    t.inputs = s.inputs ∧
    t.genCount =
      if i = .ticksOneBit then some (BitVec.ofNat 11 (spelledOneCount s))
      else if i = .ticksHalfBit then some (BitVec.ofNat 11 (spelledHalfCount s))
      else none

/-! ### The arms, one by one: result, frame and completion -/

/-- R91, with its corner case: repeating the arm changes nothing after its first application. -/
def Obligations.IdleHighSetsSeenAndLastLevel : Prop :=
  ∀ s : State, s.isReceiving = false →
    Leaves .idleHigh s { s with seenIdleHigh := true, lastLevel := true, event := .none } ∧
    ∀ t, exec .idleHigh s = .next t → Leaves .idleHigh t t

/-- R91, "repeating this arm changes nothing after its first application": any number of logic-1 ticks in Idle leave
what the first leaves, and no event is emitted. -/
def Obligations.RepeatedIdleHighChangesNothingMore : Prop :=
  ∀ (s : State) (n : Nat) (rest : List Cmd), s.isReceiving = false →
    s.inputs = List.replicate (n + 1) 1#2 ++ rest →
    run (n + 1) s =
        .next { s with seenIdleHigh := true, lastLevel := true, event := .none, genCount := none, inputs := rest } ∧
      eventTrace (n + 1) s = List.replicate (n + 1) .none

/-- R92. -/
def Obligations.IdleLowWithoutEdgeClearsLastLevelOnly : Prop :=
  ∀ s : State, s.isReceiving = false → ¬(s.seenIdleHigh = true ∧ s.lastLevel = true) →
    Leaves .idleLowNoEdge s { s with lastLevel := false, event := .none }

/-- R93: the edge call, and that the countdown it writes, the exact sum of the two counts, is 2343, 2344 or 2345. -/
def Obligations.EdgeCallStartsAFrame : Prop :=
  ∀ s : State, s.isReceiving = false → s.seenIdleHigh = true → s.lastLevel = true →
    Leaves .idleLowEdge s (spelledEdge s) ∧
    ((spelledEdge s).ticksUntilSample.toNat = spelledHalfCount s + spelledOneCount s) ∧
    ((spelledEdge s).bitFracAccumulator.toNat = spelledOneNext s) ∧
    ((spelledEdge s).ticksUntilSample.toNat = 2343 ∨ (spelledEdge s).ticksUntilSample.toNat = 2344 ∨
      (spelledEdge s).ticksUntilSample.toNat = 2345)

/-- R96: the level is ignored, the countdown goes down by one, and nothing else of the block changes. -/
def Obligations.WaitingStepOnlyCountsDown : Prop :=
  ∀ (s : State) (v : Bool), s.isReceiving = true → 0 < s.ticksUntilSample.toNat →
    Leaves (.rxWait v) s (spelledWait s) ∧
    (spelledWait s).ticksUntilSample.toNat = s.ticksUntilSample.toNat - 1

/-- R97: the level goes to `rxByte[bitIndex]`, the other bits unchanged, `bitIndex` advances, and the countdown is the
count `TICKS_ONE_BIT` returned. -/
def Obligations.DataInstantStoresOneBit : Prop :=
  ∀ (s : State) (v : Bool), s.isReceiving = true → s.ticksUntilSample.toNat = 0 → s.bitIndex.toNat < 8 →
    ∃ b, StoresBit v s b ∧ Leaves (.rxData v) s (spelledData b s) ∧
      (spelledData b s).bitIndex.toNat = s.bitIndex.toNat + 1 ∧
      (spelledData b s).ticksUntilSample.toNat = spelledOneCount s ∧
      (spelledData b s).bitFracAccumulator.toNat = spelledOneNext s

/-- Derived from R98. That the stop instant leaves `lastLevel` and `seenIdleHigh` as they were is the spec's decision
D6 (R95, notes/assumptions/6.md); that a `bitIndex` of 9 to 15 takes the arm is its decision D15 (R57, R90,
notes/assumptions/7.md). -/
def Obligations.GoodStopBitEmitsTheByte : Prop :=
  ∀ s : State, s.isReceiving = true → s.ticksUntilSample.toNat = 0 → 8 ≤ s.bitIndex.toNat →
    Leaves .rxStopOk s { s with isReceiving := false, event := .char s.rxByte }

/-- Derived from R99. That the stop instant leaves `lastLevel` and `seenIdleHigh` as they were is the spec's decision
D6 (R95, notes/assumptions/6.md); that a `bitIndex` of 9 to 15 takes the arm is its decision D15 (R57, R90,
notes/assumptions/7.md). -/
def Obligations.BadStopBitReportsFramingError : Prop :=
  ∀ s : State, s.isReceiving = true → s.ticksUntilSample.toNat = 0 → 8 ≤ s.bitIndex.toNat →
    Leaves .rxStopErr s { s with isReceiving := false, event := .framingError }

/-! ### The generator -/

/-- R71: the count it returns and the state it leaves, for every value of the accumulator, legal or not; nothing else
changes. -/
def Obligations.TicksOneBitAddsAndCarries : Prop :=
  ∀ s : State,
    (115200 ≤ 57600 + s.bitFracAccumulator.toNat →
      (ticksOneBit s).1.toNat = 1563 ∧
      (ticksOneBit s).2 =
        { s with bitFracAccumulator := BitVec.ofNat 17 (57600 + s.bitFracAccumulator.toNat - 115200) }) ∧
    (57600 + s.bitFracAccumulator.toNat < 115200 →
      (ticksOneBit s).1.toNat = 1562 ∧
      (ticksOneBit s).2 = { s with bitFracAccumulator := BitVec.ofNat 17 (57600 + s.bitFracAccumulator.toNat) }) ∧
    (s.bitFracAccumulator.toNat < 115200 → (ticksOneBit s).2.bitFracAccumulator.toNat < 115200) ∧
    (s.bitFracAccumulator = 57600 → (ticksOneBit s).1.toNat = 1563 ∧ (ticksOneBit s).2.bitFracAccumulator = 0)

/-- R75: the count it returns and the state it leaves, for every value of the counter; nothing else changes. -/
def Obligations.TicksHalfBitAdvancesAndWraps : Prop :=
  ∀ s : State,
    (s.halfBitFracAccumulator.toNat = 3 →
      (ticksHalfBit s).1.toNat = 782 ∧ (ticksHalfBit s).2 = { s with halfBitFracAccumulator := 0 }) ∧
    (s.halfBitFracAccumulator.toNat < 3 →
      (ticksHalfBit s).1.toNat = 781 ∧
      (ticksHalfBit s).2 =
        { s with halfBitFracAccumulator := BitVec.ofNat 2 (s.halfBitFracAccumulator.toNat + 1) })

/-- Derived from R71 and R75: the two rows executed by themselves complete in every state, with the effect of the
operation. That the returned count is then found in `genCount` is the model's choice (notes/assumptions/2.md). -/
def Obligations.GeneratorRowsComplete : Prop :=
  ∀ s : State,
    exec .ticksOneBit s =
        .next { s with
          bitFracAccumulator := BitVec.ofNat 17 (spelledOneNext s)
          genCount := some (BitVec.ofNat 11 (spelledOneCount s)) } ∧
      exec .ticksHalfBit s =
        .next { s with
          halfBitFracAccumulator := s.halfBitFracAccumulator + 1
          genCount := some (BitVec.ofNat 11 (spelledHalfCount s)) }

/-- R72, which the spec derives from R71: from accumulator 0 the counts alternate, beginning with 1562, and the
accumulator with them. -/
def Obligations.OneBitCountsAlternate : Prop :=
  ∀ (s : State) (n : Nat), s.bitFracAccumulator = 0 →
    ∃ t, generate .ticksOneBit n s =
        some ((List.range n).map (fun j => if j % 2 = 0 then 1562 else 1563), t) ∧
      t.bitFracAccumulator = if n % 2 = 0 then 0 else 57600

/-- R73, which the spec derives: over any `B` consecutive calls, from any legal accumulator, the counts sum to exactly
`R` and the accumulator is back where it was; in the phases of R35 any two consecutive calls sum to 3125. -/
def Obligations.OneBitCountsSumToTheSampleRate : Prop :=
  (∀ s : State, s.bitFracAccumulator.toNat < 115200 →
    ∃ l t, generate .ticksOneBit 115200 s = some (l, t) ∧ l.length = 115200 ∧ l.sum = 180000000 ∧
      t.bitFracAccumulator = s.bitFracAccumulator) ∧
  (∀ s : State, s.bitFracAccumulator = 0 ∨ s.bitFracAccumulator = 57600 →
    ∃ l t, generate .ticksOneBit 2 s = some (l, t) ∧ l.sum = 3125)

/-- R76, which the spec derives from R75: from counter 0 every fourth count is 782, the others 781, and the counter is
the number of calls modulo 4. -/
def Obligations.HalfBitCountsFollowTheCounter : Prop :=
  ∀ (s : State) (n : Nat), s.halfBitFracAccumulator = 0 →
    ∃ t, generate .ticksHalfBit n s =
        some ((List.range n).map (fun j => if (j + 1) % 4 = 0 then 782 else 781), t) ∧
      t.halfBitFracAccumulator.toNat = n % 4

/-- Derived from R77: over any 4 consecutive calls, from any counter value. That the counts are read from `genCount` is
the model's choice here and in the statements above (notes/assumptions/2.md). -/
def Obligations.FourHalfBitCountsSumTo3125 : Prop :=
  ∀ s : State, ∃ l t, generate .ticksHalfBit 4 s = some (l, t) ∧ l.length = 4 ∧ l.count 782 = 1 ∧
    l.count 781 = 3 ∧ l.sum = 3125

/-- R78, which the spec derives from R71 and R75: neither operation reads the other's accumulator, so the two may be
called in either order: same two counts, same block. -/
def Obligations.GeneratorOrderDoesNotMatter : Prop :=
  ∀ s : State,
    (ticksHalfBit s).1 = (ticksHalfBit (ticksOneBit s).2).1 ∧
    (ticksOneBit (ticksHalfBit s).2).1 = (ticksOneBit s).1 ∧
    (ticksOneBit (ticksHalfBit s).2).2 = (ticksHalfBit (ticksOneBit s).2).2

/-- Derived from R21, R22 and R71: whatever row is executed, an accumulator below `B` stays below `B`. -/
def Obligations.AccumulatorStaysBelowBaud : Prop :=
  ∀ (i : Instr) (s t : State), exec i s = .next t → s.bitFracAccumulator.toNat < 115200 →
    t.bitFracAccumulator.toNat < 115200

/-- Derived from R79: in a step the one-bit generator runs exactly at an edge call and at a data instant, the half-bit
generator exactly at an edge call; otherwise the accumulators stay, but for the reset. That `11` is `RESET` too is the
spec's decision D3 (R53). -/
def Obligations.GeneratorRunsOnlyAtEdgeAndDataInstants : Prop :=
  ∀ (s t : State) (w : Cmd) (ws : List Cmd), s.inputs = w :: ws → step s = .next t →
    let edge : Prop := w = 0#2 ∧ s.isReceiving = false ∧ s.seenIdleHigh = true ∧ s.lastLevel = true
    let data : Prop := (w = 0#2 ∨ w = 1#2) ∧ s.isReceiving = true ∧ s.ticksUntilSample.toNat = 0 ∧
      s.bitIndex.toNat < 8
    let rst : Prop := w = 2#2 ∨ w = 3#2
    (rst → t.bitFracAccumulator = 0 ∧ t.halfBitFracAccumulator = 0) ∧
    (edge ∨ data → t.bitFracAccumulator.toNat = spelledOneNext s) ∧
    (edge → t.halfBitFracAccumulator = s.halfBitFracAccumulator + 1) ∧
    (¬rst → ¬edge → ¬data → t.bitFracAccumulator = s.bitFracAccumulator) ∧
    (¬rst → ¬edge → t.halfBitFracAccumulator = s.halfBitFracAccumulator)

/-! ### Reset -/

/-- Derived from R34: the eight values of the block after reset. By R34's own marks the two accumulators are the spec's
decision D4, `ticksUntilSample`, `bitIndex` and `rxByte` its decision D5 (notes/assumptions/5.md), and `isReceiving` and
`seenIdleHigh` are derived from its source; `lastLevel` is the source's. -/
def Obligations.ResetStateIsTheTable : Prop :=
  State.reset.bitFracAccumulator = 0 ∧ State.reset.halfBitFracAccumulator = 0 ∧
    State.reset.isReceiving = false ∧ State.reset.ticksUntilSample = 0 ∧ State.reset.bitIndex = 0 ∧
    State.reset.rxByte = 0 ∧ State.reset.lastLevel = true ∧ State.reset.seenIdleHigh = false

/-- Derived from R150: in any state, whatever the level, `RESET` leaves the reset values and no event, so also in the
middle of a frame and at a stop instant; another reset step after it leaves the same. That there is a reset, that it ignores
the level and that it takes precedence is the spec's decision D3; the zeros of the accumulators are its decision D4, those
of `ticksUntilSample`, `bitIndex` and `rxByte` its decision D5 (notes/assumptions/5.md). -/
def Obligations.ResetWritesEveryField : Prop :=
  ∀ (s : State) (v : Bool),
    Leaves (.reset v) s
      { s with
        bitFracAccumulator := 0
        halfBitFracAccumulator := 0
        isReceiving := false
        ticksUntilSample := 0
        bitIndex := 0
        rxByte := 0
        lastLevel := true
        seenIdleHigh := false
        event := .none } ∧
    (∀ (t : State) (v' : Bool), exec (.reset v) s = .next t → Leaves (.reset v') t t)

/-! ### Whole-machine rules -/

/-- Derived from R20's "written by" column and R29: every row but the two `SAMPLE` commands (which do what an arm
does) leaves each field of the block but those its rule names. That the stop arms change neither `lastLevel` nor
`seenIdleHigh` is the spec's decision D6 (R27, R28, R95, notes/assumptions/6.md). That the words to come stay is the
model's choice (notes/assumptions/1.md). -/
def Obligations.EachFieldHasItsWriters : Prop :=
  ∀ (i : Instr) (s t : State), exec i s = .next t → i ≠ .sample0 → i ≠ .sample1 → (∀ v, i ≠ .reset v) →
    (t.bitFracAccumulator ≠ s.bitFracAccumulator → i = .ticksOneBit ∨ i = .idleLowEdge ∨ ∃ v, i = .rxData v) ∧
    (t.halfBitFracAccumulator ≠ s.halfBitFracAccumulator → i = .ticksHalfBit ∨ i = .idleLowEdge) ∧
    (t.isReceiving ≠ s.isReceiving → i = .idleLowEdge ∨ i = .rxStopOk ∨ i = .rxStopErr) ∧
    (t.ticksUntilSample ≠ s.ticksUntilSample →
      i = .idleLowEdge ∨ (∃ v, i = .rxWait v) ∨ ∃ v, i = .rxData v) ∧
    (t.bitIndex ≠ s.bitIndex → i = .idleLowEdge ∨ ∃ v, i = .rxData v) ∧
    (t.rxByte ≠ s.rxByte → i = .idleLowEdge ∨ ∃ v, i = .rxData v) ∧
    (t.lastLevel ≠ s.lastLevel → i = .idleHigh ∨ i = .idleLowNoEdge ∨ i = .idleLowEdge) ∧
    (t.seenIdleHigh ≠ s.seenIdleHigh → i = .idleHigh) ∧
    (t.event ≠ s.event → i.isArm = true) ∧
    t.inputs = s.inputs

/-- Derived from R23: `isReceiving` is set to 1 only by the edge call, and to 0 only at the stop-bit instant or by
reset; and there it is. That a `bitIndex` of 9 to 15 is a stop instant is the spec's decision D15
(notes/assumptions/7.md); that word 11 is a reset, at a stop instant too, is its decision D3 (R53, R135). -/
def Obligations.ReceivingBeginsAtEdgeAndEndsAtStop : Prop :=
  ∀ (s t : State) (w : Cmd) (ws : List Cmd), s.inputs = w :: ws → step s = .next t →
    (s.isReceiving = false →
      (t.isReceiving = true ↔ w = 0#2 ∧ s.seenIdleHigh = true ∧ s.lastLevel = true)) ∧
    (s.isReceiving = true →
      (t.isReceiving = false ↔
        w = 2#2 ∨ w = 3#2 ∨ (s.ticksUntilSample.toNat = 0 ∧ 8 ≤ s.bitIndex.toNat)))

/-- R28, its last part the spec's decision D6: `seenIdleHigh` is set to 1 by an Idle step that samples logic-1, is
cleared by reset only, and is written by nothing else, in particular not in Receiving. That `11` is `RESET` too is the
spec's decision D3 (R53). -/
def Obligations.SeenIdleHighIsStickyUntilReset : Prop :=
  ∀ (s t : State) (w : Cmd) (ws : List Cmd), s.inputs = w :: ws → step s = .next t →
    (w = 1#2 → s.isReceiving = false → t.seenIdleHigh = true) ∧
    (w = 2#2 ∨ w = 3#2 → t.seenIdleHigh = false) ∧
    (w = 0#2 ∨ s.isReceiving = true → w ≠ 2#2 → w ≠ 3#2 → t.seenIdleHigh = s.seenIdleHigh)

/-- Derived from R54: the event of a step and the wires that show it. Only a stop-bit instant makes an event. That a step
with `rst = 1` at a stop instant makes none is the spec's decision D3 (R135); that the event belongs to its own step is D10
(notes/assumptions/4.md); that `char_data` is absent when `char_valid = 0` is the model's form (notes/assumptions/8.md) of
decision D11, "a claim may not read it"; that a `bitIndex` of 9 to 15 is a stop instant is D15 (notes/assumptions/7.md). -/
def Obligations.EveryStepProducesItsOneEvent : Prop :=
  (∀ (s t : State) (w : Cmd) (ws : List Cmd), s.inputs = w :: ws → step s = .next t →
    let stop : Prop := s.isReceiving = true ∧ s.ticksUntilSample.toNat = 0 ∧ 8 ≤ s.bitIndex.toNat
    (stop → w = 1#2 → t.event = .char s.rxByte) ∧
    (stop → w = 0#2 → t.event = .framingError) ∧
    (¬stop ∨ w = 2#2 ∨ w = 3#2 → t.event = .none)) ∧
  (Event.charValid .none = false ∧ Event.frameErr .none = false) ∧
  (∀ b, Event.charValid (.char b) = true ∧ Event.frameErr (.char b) = false ∧ Event.charData (.char b) = some b) ∧
  (Event.charValid .framingError = false ∧ Event.frameErr .framingError = true) ∧
  (∀ e : Event, e.charValid = false → e.charData = none) ∧
  (∀ e : Event, ¬(e.charValid = true ∧ e.frameErr = true))

/-- R95, the spec's own reading (decision D6, notes/assumptions/6.md): a step in Receiving neither reads nor writes
`lastLevel` or `seenIdleHigh`: with any values there it does the same, and they come out as they went in. That a step
at an instant with a `bitIndex` of 9 to 15 takes a stop arm is the spec's decision D15 (notes/assumptions/7.md). -/
def Obligations.ReceivingLeavesEdgeTrackingAlone : Prop :=
  ∀ (s : State) (level : Bool), s.isReceiving = true →
    ∃ t, exec (sampleInstr level) s = .next t ∧ t.lastLevel = s.lastLevel ∧ t.seenIdleHigh = s.seenIdleHigh ∧
      ∀ l n : Bool, exec (sampleInstr level) { s with lastLevel := l, seenIdleHigh := n } =
        .next { t with lastLevel := l, seenIdleHigh := n }

/-- Derived from R24 and D5: in Idle no rule reads `ticksUntilSample`, `bitIndex` or `rxByte`: with any values there a
step makes the same event, and either overwrites all three or leaves them. -/
def Obligations.IdleReadsNoFrameField : Prop :=
  ∀ (s : State) (level : Bool) (x : Countdown) (k : BitIndex) (b : Byte), s.isReceiving = false →
    ∃ t, exec (sampleInstr level) s = .next t ∧
      exec (sampleInstr level) { s with ticksUntilSample := x, bitIndex := k, rxByte := b } =
        .next (if t.isReceiving then t else { t with ticksUntilSample := x, bitIndex := k, rxByte := b })

/-- Derived from R36 and R138: a tick of one instance leaves every other instance as it was, and what it does to its own
does not depend on the others. -/
def Obligations.InstancesDoNotAffectEachOther : Prop :=
  ∀ (k : Nat) (b b' : List State), stepInstance k b = some b' →
    b'.length = b.length ∧ (∀ j, j ≠ k → b'[j]? = b[j]?) ∧
    (∀ d : List State, d[k]? = b[k]? → ∃ d', stepInstance k d = some d' ∧ d'[k]? = b'[k]?)

/-! ### Reachable states -/

/-- The conditions of R35 (which the spec derives) on one state, and R27's consequence (decision D6) for a state in
Receiving, are kept by every step from every
state that meets them. -/
def Obligations.StepKeepsTheReachableConditions : Prop :=
  ∀ s t : State, Inv s → step s = .next t → Inv t

/-- The reset state meets the conditions (R34, R35), with any words for the host to present. -/
def Obligations.ResetMeetsTheReachableConditions : Prop :=
  ∀ ws : List Cmd, Inv { State.reset with inputs := ws }

/-- R35, which the spec derives, all seven items, for every state reachable from the reset state: items 1 to 5 and 7
on the state, item 6 with the history since the last reset (`pre` ends in a reset step, or is empty: the reset state
itself). That `11` is `RESET` too is the spec's decision D3 (R53). -/
def Obligations.EveryReachableStateMeetsTheInvariants : Prop :=
  (∀ (ws : List Cmd) (n : Nat) (t : State), run n { State.reset with inputs := ws } = .next t →
    (t.bitFracAccumulator = 0 ∨ t.bitFracAccumulator = 57600) ∧
    t.halfBitFracAccumulator.toNat ≤ 3 ∧
    (t.isReceiving = true →
      t.seenIdleHigh = true ∧ t.bitIndex.toNat ≤ 8 ∧ t.ticksUntilSample.toNat ≤ 2345) ∧
    (t.isReceiving = true → ∀ k, t.bitIndex.toNat ≤ k → k < 8 → t.rxByte.getLsbD k = false) ∧
    t.bitIndex.toNat ≤ 8 ∧
    (t.bitIndex.toNat = 8 → t.isReceiving = true → t.ticksUntilSample.toNat ≤ 1563)) ∧
  (∀ (pre rest : List Cmd) (levels : List Bool) (t : State),
    pre = [] ∨ (∃ v, pre.getLast? = some (packCmd true v)) →
    run (pre.length + levels.length) { State.reset with inputs := pre ++ sampleWords levels ++ rest } = .next t →
    t.seenIdleHigh = false →
    t.isReceiving = false ∧ (∀ l ∈ levels, l = false) ∧ t.lastLevel = levels.isEmpty)

/-! ### Frames -/

/-- R104, which the spec derives, with R94 and R100 for the instants and R42 for the byte: a frame from its edge call to
its stop instant, from every state that is ready for an edge (whatever the accumulators hold), for every sequence of
levels with no reset. Its only event is at the stop instant and is read off the nine instants; the levels of the other
steps have no effect. That it ends with `lastLevel = 0` and `seenIdleHigh = 1` rests on R95 and R105, the spec's
decision D6 (notes/assumptions/6.md). -/
def Obligations.FrameLaw : Prop :=
  ∀ (s : State) (levels : List Bool) (rest : List Cmd), EdgeReady s →
    levels.length = instantOffset s.bitFracAccumulator s.halfBitFracAccumulator 8 + 1 →
    levels.head? = some false →
    s.inputs = sampleWords levels ++ rest →
    let off := instantOffset s.bitFracAccumulator s.halfBitFracAccumulator
    let v := fun n => levels.getD n false
    let byte := byteOfLevels fun k => v (off k)
    eventTrace (off 8 + 1) s =
        List.replicate (off 8) .none ++ [if v (off 8) then .char byte else .framingError] ∧
      (∀ k, k < 8 → byte.getLsbD k = v (off k)) ∧
      ∃ t, run (off 8 + 1) s = .next t ∧ t.isReceiving = false ∧ t.bitIndex.toNat = 8 ∧ t.rxByte = byte ∧
        t.lastLevel = false ∧ t.seenIdleHigh = true ∧ t.inputs = rest ∧
        t.bitFracAccumulator = oneBitNext^[9] s.bitFracAccumulator ∧
        t.halfBitFracAccumulator = s.halfBitFracAccumulator + 1

/-- Derived from R94, R100 and R160: by phase of the accumulators before the edge call, the steps that begin at a
sampling instant are exactly those at R160's offsets, whatever the levels; and each offset lies in its bit's window of
R61 with at least 770 ticks to either boundary. -/
def Obligations.SamplingInstantsAreTheTable : Prop :=
  ∀ (phase : Nat × Nat) (row : List Nat),
    (phase, row) ∈
      [((0, 0), [2344, 3908, 5471, 7035, 8598, 10162, 11725, 13289, 14852]),
       ((0, 1), [2344, 3908, 5471, 7035, 8598, 10162, 11725, 13289, 14852]),
       ((0, 2), [2344, 3908, 5471, 7035, 8598, 10162, 11725, 13289, 14852]),
       ((57600, 0), [2345, 3908, 5472, 7035, 8599, 10162, 11726, 13289, 14853]),
       ((57600, 1), [2345, 3908, 5472, 7035, 8599, 10162, 11726, 13289, 14853]),
       ((57600, 2), [2345, 3908, 5472, 7035, 8599, 10162, 11726, 13289, 14853]),
       ((0, 3), [2345, 3909, 5472, 7036, 8599, 10163, 11726, 13290, 14853]),
       ((57600, 3), [2346, 3909, 5473, 7036, 8600, 10163, 11727, 13290, 14854])] →
    (∀ k, k < 9 → (k + 1) * 3125 / 2 + 770 ≤ row.getD k 0 ∧ row.getD k 0 + 770 ≤ (k + 2) * 3125 / 2) ∧
    ∀ (s : State) (levels : List Bool) (rest : List Cmd), EdgeReady s →
      s.bitFracAccumulator.toNat = phase.1 → s.halfBitFracAccumulator.toNat = phase.2 →
      levels.head? = some false → levels.length = 14855 → s.inputs = sampleWords levels ++ rest →
      ∀ n, 1 ≤ n → n ≤ row.getD 8 0 →
        ∃ u, run n s = .next u ∧
          (u.isReceiving = true ∧ u.ticksUntilSample.toNat = 0 ↔ n ∈ row)

/-- Derived from R103 and R104: between two instants the line may do anything. Two level sequences of the length of
the wait, which agree on the level of the instant that ends it, leave the same block and the same events. That a step
at an instant with a `bitIndex` of 9 to 15 takes a stop arm is the spec's decision D15 (notes/assumptions/7.md). -/
def Obligations.LevelsBetweenInstantsHaveNoEffect : Prop :=
  ∀ (s : State) (before before' : List Bool) (level : Bool) (rest : List Cmd), s.isReceiving = true →
    before.length = s.ticksUntilSample.toNat → before'.length = s.ticksUntilSample.toNat →
    let a := { s with inputs := sampleWords (before ++ [level]) ++ rest }
    let b := { s with inputs := sampleWords (before' ++ [level]) ++ rest }
    let n := s.ticksUntilSample.toNat + 1
    (∃ t, run n a = .next t ∧ run n b = .next t ∧ t.inputs = rest) ∧ eventTrace n a = eventTrace n b

/-- R105, which the spec derives, in part from R95 (decision D6): after a stop instant the machine is Idle with
`lastLevel = 0` and `seenIdleHigh = 1`; from there it stays Idle, emitting nothing, as long as no level 0 follows a
level 1, and the first level 0 that follows a level 1 is the edge call; so a level 0 right after the stop instant is
none, and a level 1 and then a level 0 is the earliest. -/
def Obligations.NextEdgeAfterAStopInstant : Prop :=
  (∀ (s : State) (level : Bool), Inv s → s.isReceiving = true → s.ticksUntilSample.toNat = 0 →
    8 ≤ s.bitIndex.toNat →
    ∃ t, exec (sampleInstr level) s = .next t ∧ t.isReceiving = false ∧ t.lastLevel = false ∧
      t.seenIdleHigh = true) ∧
  (∀ (s : State) (levels : List Bool) (rest : List Cmd), s.isReceiving = false → s.lastLevel = false →
    s.seenIdleHigh = true → hasFall levels = false →
    (s.inputs = sampleWords levels ++ rest →
      (∃ t, run levels.length s = .next t ∧ t.isReceiving = false) ∧
        eventTrace levels.length s = List.replicate levels.length .none) ∧
    (s.inputs = sampleWords (levels ++ [false]) ++ rest →
      ∃ t, run (levels.length + 1) s = .next t ∧ (t.isReceiving = true ↔ levels.getLast? = some true)))

/-- Derived from R161 and R162: from an edge call in a reachable phase the stop instant comes 14852 to 14854 ticks later,
and a frame whose edge call follows that stop instant by two ticks (a level 1, then a level 0) is received: the shortest
edge-to-edge spacing is 14854 to 14856. -/
def Obligations.NextFrameMayFollowAfterTwoTicks : Prop :=
  ∀ (s : State) (levels : List Bool) (rest : List Cmd), Inv s → EdgeReady s →
    levels.length = instantOffset s.bitFracAccumulator s.halfBitFracAccumulator 8 + 1 →
    levels.head? = some false →
    s.inputs = sampleWords (levels ++ [true, false]) ++ rest →
    (14853 ≤ levels.length ∧ levels.length ≤ 14855) ∧
      (∃ u, run (levels.length + 1) s = .next u ∧ u.isReceiving = false) ∧
      ∃ t, run (levels.length + 2) s = .next t ∧ t.isReceiving = true ∧ t.bitIndex = 0 ∧ t.rxByte = 0 ∧ t.inputs = rest

/-- Derived from R92 and R131 (the cold-start guard): from the reset state a line that stays low starts no frame and
makes no event, however long. -/
def Obligations.LowLineAfterResetStartsNoFrame : Prop :=
  ∀ (n : Nat) (rest : List Cmd),
    let s := { State.reset with inputs := List.replicate n 0#2 ++ rest }
    (∃ t, run n s = .next t ∧ t.isReceiving = false ∧ t.seenIdleHigh = false ∧ t.inputs = rest) ∧
      eventTrace n s = List.replicate n .none

/-! ### The stimulus notation -/

/-- R61, the spec's decision D13: the macros' expansions and their lengths. -/
def Obligations.StimulusMacrosExpand : Prop :=
  (∀ n, stimulusWords (idleItems n) = List.replicate n 0b01#2) ∧
  (∀ v k, stimulusWords (bitItems v k) =
    List.replicate ((k + 1) * 3125 / 2 - k * 3125 / 2) (if v then 0b01#2 else 0b00#2)) ∧
  (∀ k, bitLen k = if k % 2 = 0 then 1562 else 1563) ∧
  ((List.range 10).map bitLen).sum = 15625 ∧
  (∀ (b : Byte) (stop : Bool), frameItems b stop =
    bitItems false 0 ++ ((List.range 8).map fun k => bitItems (b.getLsbD k) (k + 1)).flatten ++ bitItems stop 9) ∧
  (∀ (b : Byte) (stop : Bool), (stimulusWords (frameItems b stop)).length = 15625)

/-- Derived from R104, R105, R160, R161 and R79: any sequence of frames, each with any byte and a good or a bad stop bit,
each followed by any number of logic-1 ticks (at least one after a bad stop bit, R155 item 3), sent to an Idle machine in
any accumulator phase after at least one logic-1 tick, produces exactly one event per frame, in order: the byte, or the
framing error; and leaves the accumulators R79 gives. -/
def Obligations.StreamOfFramesIsDecoded : Prop :=
  ∀ (s : State) (lead : Nat) (frames : List StreamFrame) (rest : List Cmd), Inv s → s.isReceiving = false →
    1 ≤ lead → (∀ f ∈ frames, f.stop = false → 1 ≤ f.gap) →
    let words := stimulusWords (idleItems lead) ++ frames.flatMap StreamFrame.words
    s.inputs = words ++ rest →
    visibleEvents words.length s = frames.map StreamFrame.event ∧
      ∃ t, run words.length s = .next t ∧ t.isReceiving = false ∧ t.inputs = rest ∧
        t.bitFracAccumulator.toNat = (s.bitFracAccumulator.toNat + 57600 * frames.length) % 115200 ∧
        t.halfBitFracAccumulator.toNat = (s.halfBitFracAccumulator.toNat + frames.length) % 4
end

