-- ==== Sys2Proof/Laws/State.lean ====
section
/-! SUPPORT. One lemma per update of the state and field read after it, so that no proof unfolds an update. -/

namespace Sys2Proof.Machine

variable (s : State)

/-! #### `State.setBitFrac` -/

@[simp] theorem State.setBitFrac_bitFracAccumulator (v : BitFrac) : (s.setBitFrac v).bitFracAccumulator = v := rfl
@[simp] theorem State.setBitFrac_halfBitFracAccumulator (v : BitFrac) : (s.setBitFrac v).halfBitFracAccumulator = s.halfBitFracAccumulator := rfl
@[simp] theorem State.setBitFrac_isReceiving (v : BitFrac) : (s.setBitFrac v).isReceiving = s.isReceiving := rfl
@[simp] theorem State.setBitFrac_ticksUntilSample (v : BitFrac) : (s.setBitFrac v).ticksUntilSample = s.ticksUntilSample := rfl
@[simp] theorem State.setBitFrac_bitIndex (v : BitFrac) : (s.setBitFrac v).bitIndex = s.bitIndex := rfl
@[simp] theorem State.setBitFrac_rxByte (v : BitFrac) : (s.setBitFrac v).rxByte = s.rxByte := rfl
@[simp] theorem State.setBitFrac_lastLevel (v : BitFrac) : (s.setBitFrac v).lastLevel = s.lastLevel := rfl
@[simp] theorem State.setBitFrac_seenIdleHigh (v : BitFrac) : (s.setBitFrac v).seenIdleHigh = s.seenIdleHigh := rfl
@[simp] theorem State.setBitFrac_event (v : BitFrac) : (s.setBitFrac v).event = s.event := rfl
@[simp] theorem State.setBitFrac_genCount (v : BitFrac) : (s.setBitFrac v).genCount = s.genCount := rfl
@[simp] theorem State.setBitFrac_inputs (v : BitFrac) : (s.setBitFrac v).inputs = s.inputs := rfl

/-! #### `State.setHalfFrac` -/

@[simp] theorem State.setHalfFrac_bitFracAccumulator (v : HalfFrac) : (s.setHalfFrac v).bitFracAccumulator = s.bitFracAccumulator := rfl
@[simp] theorem State.setHalfFrac_halfBitFracAccumulator (v : HalfFrac) : (s.setHalfFrac v).halfBitFracAccumulator = v := rfl
@[simp] theorem State.setHalfFrac_isReceiving (v : HalfFrac) : (s.setHalfFrac v).isReceiving = s.isReceiving := rfl
@[simp] theorem State.setHalfFrac_ticksUntilSample (v : HalfFrac) : (s.setHalfFrac v).ticksUntilSample = s.ticksUntilSample := rfl
@[simp] theorem State.setHalfFrac_bitIndex (v : HalfFrac) : (s.setHalfFrac v).bitIndex = s.bitIndex := rfl
@[simp] theorem State.setHalfFrac_rxByte (v : HalfFrac) : (s.setHalfFrac v).rxByte = s.rxByte := rfl
@[simp] theorem State.setHalfFrac_lastLevel (v : HalfFrac) : (s.setHalfFrac v).lastLevel = s.lastLevel := rfl
@[simp] theorem State.setHalfFrac_seenIdleHigh (v : HalfFrac) : (s.setHalfFrac v).seenIdleHigh = s.seenIdleHigh := rfl
@[simp] theorem State.setHalfFrac_event (v : HalfFrac) : (s.setHalfFrac v).event = s.event := rfl
@[simp] theorem State.setHalfFrac_genCount (v : HalfFrac) : (s.setHalfFrac v).genCount = s.genCount := rfl
@[simp] theorem State.setHalfFrac_inputs (v : HalfFrac) : (s.setHalfFrac v).inputs = s.inputs := rfl

/-! #### `State.setReceiving` -/

@[simp] theorem State.setReceiving_bitFracAccumulator (v : Bool) : (s.setReceiving v).bitFracAccumulator = s.bitFracAccumulator := rfl
@[simp] theorem State.setReceiving_halfBitFracAccumulator (v : Bool) : (s.setReceiving v).halfBitFracAccumulator = s.halfBitFracAccumulator := rfl
@[simp] theorem State.setReceiving_isReceiving (v : Bool) : (s.setReceiving v).isReceiving = v := rfl
@[simp] theorem State.setReceiving_ticksUntilSample (v : Bool) : (s.setReceiving v).ticksUntilSample = s.ticksUntilSample := rfl
@[simp] theorem State.setReceiving_bitIndex (v : Bool) : (s.setReceiving v).bitIndex = s.bitIndex := rfl
@[simp] theorem State.setReceiving_rxByte (v : Bool) : (s.setReceiving v).rxByte = s.rxByte := rfl
@[simp] theorem State.setReceiving_lastLevel (v : Bool) : (s.setReceiving v).lastLevel = s.lastLevel := rfl
@[simp] theorem State.setReceiving_seenIdleHigh (v : Bool) : (s.setReceiving v).seenIdleHigh = s.seenIdleHigh := rfl
@[simp] theorem State.setReceiving_event (v : Bool) : (s.setReceiving v).event = s.event := rfl
@[simp] theorem State.setReceiving_genCount (v : Bool) : (s.setReceiving v).genCount = s.genCount := rfl
@[simp] theorem State.setReceiving_inputs (v : Bool) : (s.setReceiving v).inputs = s.inputs := rfl

/-! #### `State.setTicks` -/

@[simp] theorem State.setTicks_bitFracAccumulator (v : Countdown) : (s.setTicks v).bitFracAccumulator = s.bitFracAccumulator := rfl
@[simp] theorem State.setTicks_halfBitFracAccumulator (v : Countdown) : (s.setTicks v).halfBitFracAccumulator = s.halfBitFracAccumulator := rfl
@[simp] theorem State.setTicks_isReceiving (v : Countdown) : (s.setTicks v).isReceiving = s.isReceiving := rfl
@[simp] theorem State.setTicks_ticksUntilSample (v : Countdown) : (s.setTicks v).ticksUntilSample = v := rfl
@[simp] theorem State.setTicks_bitIndex (v : Countdown) : (s.setTicks v).bitIndex = s.bitIndex := rfl
@[simp] theorem State.setTicks_rxByte (v : Countdown) : (s.setTicks v).rxByte = s.rxByte := rfl
@[simp] theorem State.setTicks_lastLevel (v : Countdown) : (s.setTicks v).lastLevel = s.lastLevel := rfl
@[simp] theorem State.setTicks_seenIdleHigh (v : Countdown) : (s.setTicks v).seenIdleHigh = s.seenIdleHigh := rfl
@[simp] theorem State.setTicks_event (v : Countdown) : (s.setTicks v).event = s.event := rfl
@[simp] theorem State.setTicks_genCount (v : Countdown) : (s.setTicks v).genCount = s.genCount := rfl
@[simp] theorem State.setTicks_inputs (v : Countdown) : (s.setTicks v).inputs = s.inputs := rfl

/-! #### `State.setBitIndex` -/

@[simp] theorem State.setBitIndex_bitFracAccumulator (v : BitIndex) : (s.setBitIndex v).bitFracAccumulator = s.bitFracAccumulator := rfl
@[simp] theorem State.setBitIndex_halfBitFracAccumulator (v : BitIndex) : (s.setBitIndex v).halfBitFracAccumulator = s.halfBitFracAccumulator := rfl
@[simp] theorem State.setBitIndex_isReceiving (v : BitIndex) : (s.setBitIndex v).isReceiving = s.isReceiving := rfl
@[simp] theorem State.setBitIndex_ticksUntilSample (v : BitIndex) : (s.setBitIndex v).ticksUntilSample = s.ticksUntilSample := rfl
@[simp] theorem State.setBitIndex_bitIndex (v : BitIndex) : (s.setBitIndex v).bitIndex = v := rfl
@[simp] theorem State.setBitIndex_rxByte (v : BitIndex) : (s.setBitIndex v).rxByte = s.rxByte := rfl
@[simp] theorem State.setBitIndex_lastLevel (v : BitIndex) : (s.setBitIndex v).lastLevel = s.lastLevel := rfl
@[simp] theorem State.setBitIndex_seenIdleHigh (v : BitIndex) : (s.setBitIndex v).seenIdleHigh = s.seenIdleHigh := rfl
@[simp] theorem State.setBitIndex_event (v : BitIndex) : (s.setBitIndex v).event = s.event := rfl
@[simp] theorem State.setBitIndex_genCount (v : BitIndex) : (s.setBitIndex v).genCount = s.genCount := rfl
@[simp] theorem State.setBitIndex_inputs (v : BitIndex) : (s.setBitIndex v).inputs = s.inputs := rfl

/-! #### `State.setRxByte` -/

@[simp] theorem State.setRxByte_bitFracAccumulator (v : Byte) : (s.setRxByte v).bitFracAccumulator = s.bitFracAccumulator := rfl
@[simp] theorem State.setRxByte_halfBitFracAccumulator (v : Byte) : (s.setRxByte v).halfBitFracAccumulator = s.halfBitFracAccumulator := rfl
@[simp] theorem State.setRxByte_isReceiving (v : Byte) : (s.setRxByte v).isReceiving = s.isReceiving := rfl
@[simp] theorem State.setRxByte_ticksUntilSample (v : Byte) : (s.setRxByte v).ticksUntilSample = s.ticksUntilSample := rfl
@[simp] theorem State.setRxByte_bitIndex (v : Byte) : (s.setRxByte v).bitIndex = s.bitIndex := rfl
@[simp] theorem State.setRxByte_rxByte (v : Byte) : (s.setRxByte v).rxByte = v := rfl
@[simp] theorem State.setRxByte_lastLevel (v : Byte) : (s.setRxByte v).lastLevel = s.lastLevel := rfl
@[simp] theorem State.setRxByte_seenIdleHigh (v : Byte) : (s.setRxByte v).seenIdleHigh = s.seenIdleHigh := rfl
@[simp] theorem State.setRxByte_event (v : Byte) : (s.setRxByte v).event = s.event := rfl
@[simp] theorem State.setRxByte_genCount (v : Byte) : (s.setRxByte v).genCount = s.genCount := rfl
@[simp] theorem State.setRxByte_inputs (v : Byte) : (s.setRxByte v).inputs = s.inputs := rfl

/-! #### `State.setLastLevel` -/

@[simp] theorem State.setLastLevel_bitFracAccumulator (v : Bool) : (s.setLastLevel v).bitFracAccumulator = s.bitFracAccumulator := rfl
@[simp] theorem State.setLastLevel_halfBitFracAccumulator (v : Bool) : (s.setLastLevel v).halfBitFracAccumulator = s.halfBitFracAccumulator := rfl
@[simp] theorem State.setLastLevel_isReceiving (v : Bool) : (s.setLastLevel v).isReceiving = s.isReceiving := rfl
@[simp] theorem State.setLastLevel_ticksUntilSample (v : Bool) : (s.setLastLevel v).ticksUntilSample = s.ticksUntilSample := rfl
@[simp] theorem State.setLastLevel_bitIndex (v : Bool) : (s.setLastLevel v).bitIndex = s.bitIndex := rfl
@[simp] theorem State.setLastLevel_rxByte (v : Bool) : (s.setLastLevel v).rxByte = s.rxByte := rfl
@[simp] theorem State.setLastLevel_lastLevel (v : Bool) : (s.setLastLevel v).lastLevel = v := rfl
@[simp] theorem State.setLastLevel_seenIdleHigh (v : Bool) : (s.setLastLevel v).seenIdleHigh = s.seenIdleHigh := rfl
@[simp] theorem State.setLastLevel_event (v : Bool) : (s.setLastLevel v).event = s.event := rfl
@[simp] theorem State.setLastLevel_genCount (v : Bool) : (s.setLastLevel v).genCount = s.genCount := rfl
@[simp] theorem State.setLastLevel_inputs (v : Bool) : (s.setLastLevel v).inputs = s.inputs := rfl

/-! #### `State.setSeenIdleHigh` -/

@[simp] theorem State.setSeenIdleHigh_bitFracAccumulator (v : Bool) : (s.setSeenIdleHigh v).bitFracAccumulator = s.bitFracAccumulator := rfl
@[simp] theorem State.setSeenIdleHigh_halfBitFracAccumulator (v : Bool) : (s.setSeenIdleHigh v).halfBitFracAccumulator = s.halfBitFracAccumulator := rfl
@[simp] theorem State.setSeenIdleHigh_isReceiving (v : Bool) : (s.setSeenIdleHigh v).isReceiving = s.isReceiving := rfl
@[simp] theorem State.setSeenIdleHigh_ticksUntilSample (v : Bool) : (s.setSeenIdleHigh v).ticksUntilSample = s.ticksUntilSample := rfl
@[simp] theorem State.setSeenIdleHigh_bitIndex (v : Bool) : (s.setSeenIdleHigh v).bitIndex = s.bitIndex := rfl
@[simp] theorem State.setSeenIdleHigh_rxByte (v : Bool) : (s.setSeenIdleHigh v).rxByte = s.rxByte := rfl
@[simp] theorem State.setSeenIdleHigh_lastLevel (v : Bool) : (s.setSeenIdleHigh v).lastLevel = s.lastLevel := rfl
@[simp] theorem State.setSeenIdleHigh_seenIdleHigh (v : Bool) : (s.setSeenIdleHigh v).seenIdleHigh = v := rfl
@[simp] theorem State.setSeenIdleHigh_event (v : Bool) : (s.setSeenIdleHigh v).event = s.event := rfl
@[simp] theorem State.setSeenIdleHigh_genCount (v : Bool) : (s.setSeenIdleHigh v).genCount = s.genCount := rfl
@[simp] theorem State.setSeenIdleHigh_inputs (v : Bool) : (s.setSeenIdleHigh v).inputs = s.inputs := rfl

/-! #### `State.emit` -/

@[simp] theorem State.emit_bitFracAccumulator (e : Event) : (s.emit e).bitFracAccumulator = s.bitFracAccumulator := rfl
@[simp] theorem State.emit_halfBitFracAccumulator (e : Event) : (s.emit e).halfBitFracAccumulator = s.halfBitFracAccumulator := rfl
@[simp] theorem State.emit_isReceiving (e : Event) : (s.emit e).isReceiving = s.isReceiving := rfl
@[simp] theorem State.emit_ticksUntilSample (e : Event) : (s.emit e).ticksUntilSample = s.ticksUntilSample := rfl
@[simp] theorem State.emit_bitIndex (e : Event) : (s.emit e).bitIndex = s.bitIndex := rfl
@[simp] theorem State.emit_rxByte (e : Event) : (s.emit e).rxByte = s.rxByte := rfl
@[simp] theorem State.emit_lastLevel (e : Event) : (s.emit e).lastLevel = s.lastLevel := rfl
@[simp] theorem State.emit_seenIdleHigh (e : Event) : (s.emit e).seenIdleHigh = s.seenIdleHigh := rfl
@[simp] theorem State.emit_event (e : Event) : (s.emit e).event = e := rfl
@[simp] theorem State.emit_genCount (e : Event) : (s.emit e).genCount = none := rfl
@[simp] theorem State.emit_inputs (e : Event) : (s.emit e).inputs = s.inputs := rfl

/-! #### `State.answerCount` -/

@[simp] theorem State.answerCount_bitFracAccumulator (n : OneCount) : (s.answerCount n).bitFracAccumulator = s.bitFracAccumulator := rfl
@[simp] theorem State.answerCount_halfBitFracAccumulator (n : OneCount) : (s.answerCount n).halfBitFracAccumulator = s.halfBitFracAccumulator := rfl
@[simp] theorem State.answerCount_isReceiving (n : OneCount) : (s.answerCount n).isReceiving = s.isReceiving := rfl
@[simp] theorem State.answerCount_ticksUntilSample (n : OneCount) : (s.answerCount n).ticksUntilSample = s.ticksUntilSample := rfl
@[simp] theorem State.answerCount_bitIndex (n : OneCount) : (s.answerCount n).bitIndex = s.bitIndex := rfl
@[simp] theorem State.answerCount_rxByte (n : OneCount) : (s.answerCount n).rxByte = s.rxByte := rfl
@[simp] theorem State.answerCount_lastLevel (n : OneCount) : (s.answerCount n).lastLevel = s.lastLevel := rfl
@[simp] theorem State.answerCount_seenIdleHigh (n : OneCount) : (s.answerCount n).seenIdleHigh = s.seenIdleHigh := rfl
@[simp] theorem State.answerCount_event (n : OneCount) : (s.answerCount n).event = s.event := rfl
@[simp] theorem State.answerCount_genCount (n : OneCount) : (s.answerCount n).genCount = some n := rfl
@[simp] theorem State.answerCount_inputs (n : OneCount) : (s.answerCount n).inputs = s.inputs := rfl

/-! #### `State.setInputs` -/

@[simp] theorem State.setInputs_bitFracAccumulator (ws : List Cmd) : (s.setInputs ws).bitFracAccumulator = s.bitFracAccumulator := rfl
@[simp] theorem State.setInputs_halfBitFracAccumulator (ws : List Cmd) : (s.setInputs ws).halfBitFracAccumulator = s.halfBitFracAccumulator := rfl
@[simp] theorem State.setInputs_isReceiving (ws : List Cmd) : (s.setInputs ws).isReceiving = s.isReceiving := rfl
@[simp] theorem State.setInputs_ticksUntilSample (ws : List Cmd) : (s.setInputs ws).ticksUntilSample = s.ticksUntilSample := rfl
@[simp] theorem State.setInputs_bitIndex (ws : List Cmd) : (s.setInputs ws).bitIndex = s.bitIndex := rfl
@[simp] theorem State.setInputs_rxByte (ws : List Cmd) : (s.setInputs ws).rxByte = s.rxByte := rfl
@[simp] theorem State.setInputs_lastLevel (ws : List Cmd) : (s.setInputs ws).lastLevel = s.lastLevel := rfl
@[simp] theorem State.setInputs_seenIdleHigh (ws : List Cmd) : (s.setInputs ws).seenIdleHigh = s.seenIdleHigh := rfl
@[simp] theorem State.setInputs_event (ws : List Cmd) : (s.setInputs ws).event = s.event := rfl
@[simp] theorem State.setInputs_genCount (ws : List Cmd) : (s.setInputs ws).genCount = s.genCount := rfl
@[simp] theorem State.setInputs_inputs (ws : List Cmd) : (s.setInputs ws).inputs = ws := rfl

end Sys2Proof.Machine
end

