-- ==== Sys2Proof/Laws/Generator.lean ====
section
/-! SUPPORT. The generator's counts and accumulators in numerals (R71, R75): no stored value is cut by its width, whatever
the accumulator holds (R71's corner cases). -/

namespace Sys2Proof.Machine

theorem baud_eq : Config.baud = 115200 := rfl

theorem oneBitSum_eq (a : BitFrac) : oneBitSum a = 57600 + a.toNat := rfl

theorem oneBitCarry_iff (a : BitFrac) : oneBitCarry a = true ↔ 115200 ≤ 57600 + a.toNat := by
  rw [oneBitCarry, decide_eq_true_iff, baud_eq, oneBitSum_eq]

theorem oneBitCount_toNat (a : BitFrac) :
    (oneBitCount a).toNat = if 115200 ≤ 57600 + a.toNat then 1563 else 1562 := by
  by_cases h : oneBitCarry a = true
  · rw [if_pos ((oneBitCarry_iff a).1 h)]
    simp [oneBitCount, h, Config.oneBase, Config.sampleHz, Config.baud]
  · rw [if_neg (mt (oneBitCarry_iff a).2 h)]
    simp [oneBitCount, h, Config.oneBase, Config.sampleHz, Config.baud]

theorem oneBitNext_toNat (a : BitFrac) :
    (oneBitNext a).toNat =
      if 115200 ≤ 57600 + a.toNat then 57600 + a.toNat - 115200 else 57600 + a.toNat := by
  have ha : a.toNat < 131072 := a.isLt
  by_cases h : oneBitCarry a = true
  · rw [if_pos ((oneBitCarry_iff a).1 h)]
    have hc := (oneBitCarry_iff a).1 h
    rw [oneBitNext, if_pos h, oneBitSum_eq, BitVec.toNat_ofNat, baud_eq]
    omega
  · rw [if_neg (mt (oneBitCarry_iff a).2 h)]
    have : 57600 + a.toNat < 131072 := by
      have := mt (oneBitCarry_iff a).2 h
      omega
    simp only [oneBitNext, if_neg h, oneBitSum_eq, BitVec.toNat_ofNat]
    omega

/-! The two cases of `TICKS_ONE_BIT` as equations between words, and the two phases of rule R35. -/

section
variable {a : BitFrac}

theorem oneBitCount_of_carry (h : 115200 ≤ 57600 + a.toNat) : oneBitCount a = 1563#11 := by
  have hn : (oneBitCount a).toNat = 1563 := by rw [oneBitCount_toNat, if_pos h]
  exact BitVec.eq_of_toNat_eq hn

theorem oneBitCount_of_noCarry (h : 57600 + a.toNat < 115200) : oneBitCount a = 1562#11 := by
  have hn : (oneBitCount a).toNat = 1562 := by rw [oneBitCount_toNat, if_neg (by omega)]
  exact BitVec.eq_of_toNat_eq hn

theorem oneBitNext_of_carry (h : 115200 ≤ 57600 + a.toNat) :
    oneBitNext a = BitVec.ofNat 17 (57600 + a.toNat - 115200) := by
  rw [oneBitNext, if_pos ((oneBitCarry_iff a).2 h), oneBitSum_eq, baud_eq]

theorem oneBitNext_of_noCarry (h : 57600 + a.toNat < 115200) :
    oneBitNext a = BitVec.ofNat 17 (57600 + a.toNat) := by
  rw [oneBitNext, if_neg (mt (oneBitCarry_iff a).1 (by omega)), oneBitSum_eq]

end

theorem oneBitNext_zero : oneBitNext 0 = 57600#17 := by decide

theorem oneBitNext_phase : oneBitNext 57600#17 = 0 := by decide

theorem oneBitCount_zero : oneBitCount 0 = 1562#11 := by decide

theorem oneBitCount_phase : oneBitCount 57600#17 = 1563#11 := by decide

theorem halfBitNext_eq (h : HalfFrac) : halfBitNext h = h + 1 := by
  revert h; decide

theorem halfBitCount_toNat (h : HalfFrac) :
    (halfBitCount h).toNat = if (h.toNat + 1) % 4 = 0 then 782 else 781 := by
  revert h; decide

theorem oneBitCount_cases (a : BitFrac) : (oneBitCount a).toNat = 1562 ∨ (oneBitCount a).toNat = 1563 := by
  rw [oneBitCount_toNat]; split <;> simp

theorem halfBitCount_cases (h : HalfFrac) : (halfBitCount h).toNat = 781 ∨ (halfBitCount h).toNat = 782 := by
  rw [halfBitCount_toNat]; split <;> simp

@[simp] theorem ticksOneBit_count (s : State) : (ticksOneBit s).1 = oneBitCount s.bitFracAccumulator := rfl

@[simp] theorem ticksOneBit_state (s : State) :
    (ticksOneBit s).2 = s.setBitFrac (oneBitNext s.bitFracAccumulator) := rfl

@[simp] theorem ticksHalfBit_count (s : State) : (ticksHalfBit s).1 = halfBitCount s.halfBitFracAccumulator := rfl

@[simp] theorem ticksHalfBit_state (s : State) :
    (ticksHalfBit s).2 = s.setHalfFrac (halfBitNext s.halfBitFracAccumulator) := rfl

end Sys2Proof.Machine
end

