-- ==== Sys2Proof/Laws/Operands.lean ====
section
/-! SUPPORT. The conditions of rule R56 as propositions. -/

namespace Sys2Proof.Machine

variable (s : State)

theorem dataBits_eq : Config.dataBits = 8 := rfl

@[simp] theorem atInstant_iff :
    atInstant s = true ↔ s.isReceiving = true ∧ s.ticksUntilSample.toNat = 0 := by
  simp [atInstant]

@[simp] theorem atDataInstant_iff :
    atDataInstant s = true ↔ s.isReceiving = true ∧ s.ticksUntilSample.toNat = 0 ∧ s.bitIndex.toNat < 8 := by
  rw [atDataInstant, dataBits_eq, Bool.and_eq_true, atInstant_iff, decide_eq_true_iff, and_assoc]

@[simp] theorem atStopInstant_iff :
    atStopInstant s = true ↔ s.isReceiving = true ∧ s.ticksUntilSample.toNat = 0 ∧ 8 ≤ s.bitIndex.toNat := by
  rw [atStopInstant, dataBits_eq, Bool.and_eq_true, atInstant_iff, decide_eq_true_iff, and_assoc]

variable {s}

/-! The arm a `SAMPLE` step takes, path by path (R56). -/

theorem selectArm_idle_high (h : s.isReceiving = false) : selectArm true s = .idleHigh := by
  simp [selectArm, h]

theorem selectArm_idle_edge (h : s.isReceiving = false) (hn : (s.seenIdleHigh && s.lastLevel) = true) :
    selectArm false s = .idleLowEdge := by
  simp only [selectArm, h, hn, if_true, Bool.false_eq_true, if_false]

theorem selectArm_idle_noEdge (h : s.isReceiving = false) (hn : (s.seenIdleHigh && s.lastLevel) = false) :
    selectArm false s = .idleLowNoEdge := by
  simp only [selectArm, h, hn, Bool.false_eq_true, if_false]

theorem selectArm_wait {level : Bool} (h : s.isReceiving = true) (ht : 0 < s.ticksUntilSample.toNat) :
    selectArm level s = .rxWait level := by
  simp only [selectArm, h, if_true, if_pos ht]

theorem selectArm_data {level : Bool} (h : s.isReceiving = true) (ht : s.ticksUntilSample.toNat = 0)
    (hb : s.bitIndex.toNat < 8) : selectArm level s = .rxData level := by
  rw [selectArm, if_pos h, if_neg (by omega), if_pos (by rw [dataBits_eq]; exact hb)]

theorem selectArm_stop {level : Bool} (h : s.isReceiving = true) (ht : s.ticksUntilSample.toNat = 0)
    (hb : 8 ≤ s.bitIndex.toNat) : selectArm level s = if level then .rxStopOk else .rxStopErr := by
  rw [selectArm, if_pos h, if_neg (by omega), if_neg (by rw [dataBits_eq]; omega)]

@[simp] theorem decodeIn_sampleWord (level : Bool) : decodeIn s (sampleWord level) = selectArm level s := by
  cases level <;> rfl

end Sys2Proof.Machine
end

