-- ==== Sys2Proof/Laws/Ops.lean ====
section
/-! SUPPORT. What the shared operations over words and the state do: packing and unpacking the input word, reading the
pins, writing one bit of a byte. -/

namespace Sys2Proof

@[simp] theorem cmdRst_packCmd (r x : Bool) : cmdRst (packCmd r x) = r := by
  cases r <;> cases x <;> rfl

@[simp] theorem cmdRx_packCmd (r x : Bool) : cmdRx (packCmd r x) = x := by
  cases r <;> cases x <;> rfl

@[simp] theorem packCmd_cmdRst_cmdRx (w : Cmd) : packCmd (cmdRst w) (cmdRx w) = w := by
  revert w; decide

@[simp] theorem decode_packCmd_true (x : Bool) : decode (packCmd true x) = .reset x := by
  cases x <;> rfl

@[simp] theorem decode_sampleWord (level : Bool) : decode (sampleWord level) = sampleInstr level := by
  cases level <;> rfl

/-- Every word is a reset word or a sample word. -/
theorem cmd_cases (w : Cmd) : (∃ v, w = packCmd true v) ∨ ∃ level, w = sampleWord level := by
  revert w; decide

/-- The four words by number. -/
theorem cmd_numbers (w : Cmd) : w = 0#2 ∨ w = 1#2 ∨ w = 2#2 ∨ w = 3#2 := by
  revert w; decide

theorem decode_kind (w : Cmd) : (decode w).kind = .command := by
  revert w; decide

namespace Machine

theorem fetch_cons {s : State} {w : Cmd} {ws : List Cmd} (h : s.inputs = w :: ws) :
    fetch s = some (w, s.setInputs ws) := by
  simp [fetch, h]

theorem fetch_nil {s : State} (h : s.inputs = []) : fetch s = none := by
  simp [fetch, h]

theorem writeBit_getLsbD (b : Byte) (k : Nat) (level : Bool) (j : Nat) (hj : j < 8) :
    (writeBit b k level).getLsbD j = if j = k then level else b.getLsbD j := by
  by_cases hjk : j = k
  · subst hjk
    cases level <;> simp [writeBit, hj]
  · rcases Nat.lt_or_gt_of_ne hjk with h | h
    · cases level <;> simp [writeBit, hj, hjk, h]
    · have h0 : ¬ j - k = 0 := by omega
      have h1 : ¬ j < k := by omega
      cases level <;> simp [writeBit, hj, hjk, h0, h1]

end Machine

end Sys2Proof
end

