-- ==== Sys2Proof/Laws/Frame.lean ====
section
/-! SUPPORT. What the Frame State Machine's shared operations do, each as its writes; and the paths of a `SAMPLE` step,
said once. -/

namespace Sys2Proof.Machine

variable (s : State) (level : Bool)

theorem startFrame_eq :
    startFrame s = (((((s.setReceiving true).setBitIndex 0).setRxByte 0).setHalfFrac
      (halfBitNext s.halfBitFracAccumulator)).setBitFrac (oneBitNext s.bitFracAccumulator)).setTicks
        (BitVec.ofNat 12
          ((halfBitCount s.halfBitFracAccumulator).toNat + (oneBitCount s.bitFracAccumulator).toNat)) := by
  simp only [startFrame, ticksHalfBit_state, ticksOneBit_state, ticksHalfBit_count, ticksOneBit_count]
  simp

theorem waitTick_eq :
    waitTick s = { s with ticksUntilSample := BitVec.ofNat 12 (s.ticksUntilSample.toNat - 1) } := rfl

theorem dataInstant_eq :
    dataInstant level s = (((s.setRxByte (writeBit s.rxByte s.bitIndex.toNat level)).setBitIndex
      (BitVec.ofNat 4 (s.bitIndex.toNat + 1))).setBitFrac (oneBitNext s.bitFracAccumulator)).setTicks
        (BitVec.ofNat 12 (oneBitCount s.bitFracAccumulator).toNat) := by
  simp [dataInstant]

@[simp] theorem lastLevelAfterStop_eq : lastLevelAfterStop level s = s.lastLevel := rfl

theorem stopInstant_eq : stopInstant level s = { s with isReceiving := false } := rfl

theorem restart_eq : restart s = { State.reset with event := s.event, genCount := s.genCount, inputs := s.inputs } := rfl

/-! #### The fields after `startFrame` -/

@[simp] theorem startFrame_bitFracAccumulator : (startFrame s).bitFracAccumulator = oneBitNext s.bitFracAccumulator := by
  rw [startFrame_eq, State.setTicks_bitFracAccumulator, State.setBitFrac_bitFracAccumulator]
@[simp] theorem startFrame_halfBitFracAccumulator : (startFrame s).halfBitFracAccumulator = halfBitNext s.halfBitFracAccumulator := by
  rw [startFrame_eq, State.setTicks_halfBitFracAccumulator, State.setBitFrac_halfBitFracAccumulator, State.setHalfFrac_halfBitFracAccumulator]
@[simp] theorem startFrame_isReceiving : (startFrame s).isReceiving = true := by
  rw [startFrame_eq, State.setTicks_isReceiving, State.setBitFrac_isReceiving, State.setHalfFrac_isReceiving, State.setRxByte_isReceiving, State.setBitIndex_isReceiving, State.setReceiving_isReceiving]
@[simp] theorem startFrame_bitIndex : (startFrame s).bitIndex = 0 := by
  rw [startFrame_eq, State.setTicks_bitIndex, State.setBitFrac_bitIndex, State.setHalfFrac_bitIndex, State.setRxByte_bitIndex, State.setBitIndex_bitIndex]
@[simp] theorem startFrame_rxByte : (startFrame s).rxByte = 0 := by
  rw [startFrame_eq, State.setTicks_rxByte, State.setBitFrac_rxByte, State.setHalfFrac_rxByte, State.setRxByte_rxByte]
@[simp] theorem startFrame_lastLevel : (startFrame s).lastLevel = s.lastLevel := by
  rw [startFrame_eq, State.setTicks_lastLevel, State.setBitFrac_lastLevel, State.setHalfFrac_lastLevel, State.setRxByte_lastLevel, State.setBitIndex_lastLevel, State.setReceiving_lastLevel]
@[simp] theorem startFrame_seenIdleHigh : (startFrame s).seenIdleHigh = s.seenIdleHigh := by
  rw [startFrame_eq, State.setTicks_seenIdleHigh, State.setBitFrac_seenIdleHigh, State.setHalfFrac_seenIdleHigh, State.setRxByte_seenIdleHigh, State.setBitIndex_seenIdleHigh, State.setReceiving_seenIdleHigh]
@[simp] theorem startFrame_event : (startFrame s).event = s.event := by
  rw [startFrame_eq, State.setTicks_event, State.setBitFrac_event, State.setHalfFrac_event, State.setRxByte_event, State.setBitIndex_event, State.setReceiving_event]
@[simp] theorem startFrame_genCount : (startFrame s).genCount = s.genCount := by
  rw [startFrame_eq, State.setTicks_genCount, State.setBitFrac_genCount, State.setHalfFrac_genCount, State.setRxByte_genCount, State.setBitIndex_genCount, State.setReceiving_genCount]
@[simp] theorem startFrame_inputs : (startFrame s).inputs = s.inputs := by
  rw [startFrame_eq, State.setTicks_inputs, State.setBitFrac_inputs, State.setHalfFrac_inputs, State.setRxByte_inputs, State.setBitIndex_inputs, State.setReceiving_inputs]

/-! #### The fields after `waitTick` -/

@[simp] theorem waitTick_bitFracAccumulator : (waitTick s).bitFracAccumulator = s.bitFracAccumulator := rfl
@[simp] theorem waitTick_halfBitFracAccumulator : (waitTick s).halfBitFracAccumulator = s.halfBitFracAccumulator := rfl
@[simp] theorem waitTick_isReceiving : (waitTick s).isReceiving = s.isReceiving := rfl
@[simp] theorem waitTick_bitIndex : (waitTick s).bitIndex = s.bitIndex := rfl
@[simp] theorem waitTick_rxByte : (waitTick s).rxByte = s.rxByte := rfl
@[simp] theorem waitTick_lastLevel : (waitTick s).lastLevel = s.lastLevel := rfl
@[simp] theorem waitTick_seenIdleHigh : (waitTick s).seenIdleHigh = s.seenIdleHigh := rfl
@[simp] theorem waitTick_event : (waitTick s).event = s.event := rfl
@[simp] theorem waitTick_genCount : (waitTick s).genCount = s.genCount := rfl
@[simp] theorem waitTick_inputs : (waitTick s).inputs = s.inputs := rfl

/-! #### The fields after `dataInstant` -/

@[simp] theorem dataInstant_bitFracAccumulator : (dataInstant level s).bitFracAccumulator = oneBitNext s.bitFracAccumulator := by
  rw [dataInstant_eq, State.setTicks_bitFracAccumulator, State.setBitFrac_bitFracAccumulator]
@[simp] theorem dataInstant_halfBitFracAccumulator : (dataInstant level s).halfBitFracAccumulator = s.halfBitFracAccumulator := by
  rw [dataInstant_eq, State.setTicks_halfBitFracAccumulator, State.setBitFrac_halfBitFracAccumulator, State.setBitIndex_halfBitFracAccumulator, State.setRxByte_halfBitFracAccumulator]
@[simp] theorem dataInstant_isReceiving : (dataInstant level s).isReceiving = s.isReceiving := by
  rw [dataInstant_eq, State.setTicks_isReceiving, State.setBitFrac_isReceiving, State.setBitIndex_isReceiving, State.setRxByte_isReceiving]
@[simp] theorem dataInstant_rxByte : (dataInstant level s).rxByte = writeBit s.rxByte s.bitIndex.toNat level := by
  rw [dataInstant_eq, State.setTicks_rxByte, State.setBitFrac_rxByte, State.setBitIndex_rxByte, State.setRxByte_rxByte]
@[simp] theorem dataInstant_lastLevel : (dataInstant level s).lastLevel = s.lastLevel := by
  rw [dataInstant_eq, State.setTicks_lastLevel, State.setBitFrac_lastLevel, State.setBitIndex_lastLevel, State.setRxByte_lastLevel]
@[simp] theorem dataInstant_seenIdleHigh : (dataInstant level s).seenIdleHigh = s.seenIdleHigh := by
  rw [dataInstant_eq, State.setTicks_seenIdleHigh, State.setBitFrac_seenIdleHigh, State.setBitIndex_seenIdleHigh, State.setRxByte_seenIdleHigh]
@[simp] theorem dataInstant_event : (dataInstant level s).event = s.event := by
  rw [dataInstant_eq, State.setTicks_event, State.setBitFrac_event, State.setBitIndex_event, State.setRxByte_event]
@[simp] theorem dataInstant_genCount : (dataInstant level s).genCount = s.genCount := by
  rw [dataInstant_eq, State.setTicks_genCount, State.setBitFrac_genCount, State.setBitIndex_genCount, State.setRxByte_genCount]
@[simp] theorem dataInstant_inputs : (dataInstant level s).inputs = s.inputs := by
  rw [dataInstant_eq, State.setTicks_inputs, State.setBitFrac_inputs, State.setBitIndex_inputs, State.setRxByte_inputs]

/-! #### The fields after `stopInstant` -/

@[simp] theorem stopInstant_bitFracAccumulator : (stopInstant level s).bitFracAccumulator = s.bitFracAccumulator := rfl
@[simp] theorem stopInstant_halfBitFracAccumulator : (stopInstant level s).halfBitFracAccumulator = s.halfBitFracAccumulator := rfl
@[simp] theorem stopInstant_isReceiving : (stopInstant level s).isReceiving = false := rfl
@[simp] theorem stopInstant_ticksUntilSample : (stopInstant level s).ticksUntilSample = s.ticksUntilSample := rfl
@[simp] theorem stopInstant_bitIndex : (stopInstant level s).bitIndex = s.bitIndex := rfl
@[simp] theorem stopInstant_rxByte : (stopInstant level s).rxByte = s.rxByte := rfl
@[simp] theorem stopInstant_lastLevel : (stopInstant level s).lastLevel = s.lastLevel := rfl
@[simp] theorem stopInstant_seenIdleHigh : (stopInstant level s).seenIdleHigh = s.seenIdleHigh := rfl
@[simp] theorem stopInstant_event : (stopInstant level s).event = s.event := rfl
@[simp] theorem stopInstant_genCount : (stopInstant level s).genCount = s.genCount := rfl
@[simp] theorem stopInstant_inputs : (stopInstant level s).inputs = s.inputs := rfl

/-! #### The fields after `restart` -/

@[simp] theorem restart_bitFracAccumulator : (restart s).bitFracAccumulator = 0 := rfl
@[simp] theorem restart_halfBitFracAccumulator : (restart s).halfBitFracAccumulator = 0 := rfl
@[simp] theorem restart_isReceiving : (restart s).isReceiving = false := rfl
@[simp] theorem restart_ticksUntilSample : (restart s).ticksUntilSample = 0 := rfl
@[simp] theorem restart_bitIndex : (restart s).bitIndex = 0 := rfl
@[simp] theorem restart_rxByte : (restart s).rxByte = 0 := rfl
@[simp] theorem restart_lastLevel : (restart s).lastLevel = true := rfl
@[simp] theorem restart_seenIdleHigh : (restart s).seenIdleHigh = false := rfl
@[simp] theorem restart_event : (restart s).event = s.event := rfl
@[simp] theorem restart_genCount : (restart s).genCount = s.genCount := rfl
@[simp] theorem restart_inputs : (restart s).inputs = s.inputs := rfl

/-- The first countdown of a frame fits its register. -/
@[simp] theorem startFrame_ticks_toNat :
    (startFrame s).ticksUntilSample.toNat =
      (halfBitCount s.halfBitFracAccumulator).toNat + (oneBitCount s.bitFracAccumulator).toNat := by
  have := halfBitCount_cases s.halfBitFracAccumulator
  have := oneBitCount_cases s.bitFracAccumulator
  rw [startFrame_eq, State.setTicks_ticksUntilSample, BitVec.toNat_ofNat]
  omega

@[simp] theorem waitTick_ticks_toNat : (waitTick s).ticksUntilSample.toNat = s.ticksUntilSample.toNat - 1 := by
  have := s.ticksUntilSample.isLt
  rw [waitTick_eq]
  simp only [BitVec.toNat_ofNat]
  omega

@[simp] theorem dataInstant_ticks_toNat :
    (dataInstant level s).ticksUntilSample.toNat = (oneBitCount s.bitFracAccumulator).toNat := by
  have := oneBitCount_cases s.bitFracAccumulator
  rw [dataInstant_eq, State.setTicks_ticksUntilSample, BitVec.toNat_ofNat]
  omega

theorem dataInstant_bitIndex_toNat (h : s.bitIndex.toNat < 8) :
    (dataInstant level s).bitIndex.toNat = s.bitIndex.toNat + 1 := by
  rw [dataInstant_eq, State.setTicks_bitIndex, State.setBitFrac_bitIndex, State.setBitIndex_bitIndex, BitVec.toNat_ofNat]
  omega

/-! #### The paths of `SAMPLE` (R90) -/

variable {s level}

theorem sample_idle_high (h : s.isReceiving = false) :
    sample true s = ((s.setSeenIdleHigh true).setLastLevel true).emit .none := by
  simp [sample, h, sampleIdle, noteIdleHigh, startEdge]

theorem sample_idle_noEdge (h : s.isReceiving = false) (hn : (s.seenIdleHigh && s.lastLevel) = false) :
    sample false s = (s.setLastLevel false).emit .none := by
  simp [sample, h, sampleIdle, noteIdleHigh, startEdge, hn]

theorem sample_idle_edge (h : s.isReceiving = false) (hn : (s.seenIdleHigh && s.lastLevel) = true) :
    sample false s = ((startFrame s).setLastLevel false).emit .none := by
  simp [sample, h, sampleIdle, noteIdleHigh, startEdge, hn]

theorem sample_wait (h : s.isReceiving = true) (ht : 0 < s.ticksUntilSample.toNat) :
    sample level s = (waitTick s).emit .none := by
  simp [sample, h, sampleReceiving, ht]

theorem sample_data (h : s.isReceiving = true) (ht : s.ticksUntilSample.toNat = 0) (hb : s.bitIndex.toNat < 8) :
    sample level s = (dataInstant level s).emit .none := by
  simp [sample, h, sampleReceiving, ht, hb, Config.dataBits]

theorem sample_stop (h : s.isReceiving = true) (ht : s.ticksUntilSample.toNat = 0) (hb : 8 ≤ s.bitIndex.toNat) :
    sample level s = (stopInstant level s).emit (stopEvent level s) := by
  simp [sample, h, sampleReceiving, ht, Nat.not_lt.2 hb, Config.dataBits]

/-- The six paths of a `SAMPLE` step, with the conditions of each. -/
inductive SamplePath (level : Bool) (s : State) : Prop where
  | idleHigh (h : s.isReceiving = false) (hl : level = true)
  | noEdge (h : s.isReceiving = false) (hl : level = false) (hn : (s.seenIdleHigh && s.lastLevel) = false)
  | edge (h : s.isReceiving = false) (hl : level = false) (hn : (s.seenIdleHigh && s.lastLevel) = true)
  | wait (h : s.isReceiving = true) (ht : 0 < s.ticksUntilSample.toNat)
  | data (h : s.isReceiving = true) (ht : s.ticksUntilSample.toNat = 0) (hb : s.bitIndex.toNat < 8)
  | stop (h : s.isReceiving = true) (ht : s.ticksUntilSample.toNat = 0) (hb : 8 ≤ s.bitIndex.toNat)

theorem samplePath (level : Bool) (s : State) : SamplePath level s := by
  cases h : s.isReceiving
  · cases level
    · cases hn : s.seenIdleHigh && s.lastLevel
      · exact .noEdge h rfl hn
      · exact .edge h rfl hn
    · exact .idleHigh h rfl
  · rcases Nat.eq_zero_or_pos s.ticksUntilSample.toNat with ht | ht
    · rcases Nat.lt_or_ge s.bitIndex.toNat 8 with hb | hb
      · exact .data h ht hb
      · exact .stop h ht hb
    · exact .wait h ht

/-- The operations neither read nor write the words still to come. -/
theorem startFrame_setInputs (ws : List Cmd) : startFrame (s.setInputs ws) = (startFrame s).setInputs ws := by
  rw [startFrame_eq, startFrame_eq, State.setInputs_halfBitFracAccumulator, State.setInputs_bitFracAccumulator]
  simp only [State.setInputs, State.setReceiving, State.setBitIndex, State.setRxByte, State.setHalfFrac, State.setBitFrac,
    State.setTicks]

theorem dataInstant_setInputs (ws : List Cmd) :
    dataInstant level (s.setInputs ws) = (dataInstant level s).setInputs ws := by
  rw [dataInstant_eq, dataInstant_eq, State.setInputs_rxByte, State.setInputs_bitIndex, State.setInputs_bitFracAccumulator]
  simp only [State.setInputs, State.setBitIndex, State.setRxByte, State.setBitFrac, State.setTicks]

/-- A `SAMPLE` step neither reads nor writes the words still to come. -/
theorem sample_setInputs (level : Bool) (s : State) (ws : List Cmd) :
    sample level (s.setInputs ws) = (sample level s).setInputs ws := by
  rcases samplePath level s with ⟨h, rfl⟩ | ⟨h, rfl, hn⟩ | ⟨h, rfl, hn⟩ | ⟨h, ht⟩ | ⟨h, ht, hb⟩ | ⟨h, ht, hb⟩
  · rw [sample_idle_high h, sample_idle_high (s := s.setInputs ws) h]; rfl
  · rw [sample_idle_noEdge h hn, sample_idle_noEdge (s := s.setInputs ws) h hn]; rfl
  · rw [sample_idle_edge h hn, sample_idle_edge (s := s.setInputs ws) h hn, startFrame_setInputs]; rfl
  · rw [sample_wait h ht, sample_wait (s := s.setInputs ws) h ht]; rfl
  · rw [sample_data h ht hb, sample_data (s := s.setInputs ws) h ht hb, dataInstant_setInputs]; rfl
  · rw [sample_stop h ht hb, sample_stop (s := s.setInputs ws) h ht hb]; rfl

@[simp] theorem sample_inputs (level : Bool) (s : State) : (sample level s).inputs = s.inputs := by
  rcases samplePath level s with ⟨h, rfl⟩ | ⟨h, rfl, hn⟩ | ⟨h, rfl, hn⟩ | ⟨h, ht⟩ | ⟨h, ht, hb⟩ | ⟨h, ht, hb⟩
  · simp [sample_idle_high h]
  · simp [sample_idle_noEdge h hn]
  · simp [sample_idle_edge h hn]
  · simp [sample_wait h ht]
  · simp [sample_data h ht hb]
  · simp [sample_stop h ht hb]

@[simp] theorem sample_genCount (level : Bool) (s : State) : (sample level s).genCount = none := by
  rcases samplePath level s with ⟨h, rfl⟩ | ⟨h, rfl, hn⟩ | ⟨h, rfl, hn⟩ | ⟨h, ht⟩ | ⟨h, ht, hb⟩ | ⟨h, ht, hb⟩
  · simp [sample_idle_high h]
  · simp [sample_idle_noEdge h hn]
  · simp [sample_idle_edge h hn]
  · simp [sample_wait h ht]
  · simp [sample_data h ht hb]
  · simp [sample_stop h ht hb]

/-! #### The rows of the table -/

@[simp] theorem exec_sampleInstr (level : Bool) (s : State) :
    exec (sampleInstr level) s = .next (sample level s) := by
  cases level <;> rfl

@[simp] theorem exec_reset (v : Bool) (s : State) : exec (.reset v) s = .next ((restart s).emit .none) := rfl

theorem exec_ticksOneBit (s : State) :
    exec .ticksOneBit s =
      .next ((s.setBitFrac (oneBitNext s.bitFracAccumulator)).answerCount (oneBitCount s.bitFracAccumulator)) := by
  simp only [exec, execTicksOneBit, ticksOneBit_count, ticksOneBit_state]

theorem exec_ticksHalfBit (s : State) :
    exec .ticksHalfBit s =
      .next ((s.setHalfFrac (halfBitNext s.halfBitFracAccumulator)).answerCount
        ((halfBitCount s.halfBitFracAccumulator).zeroExtend 11)) := by
  simp only [exec, execTicksHalfBit, ticksHalfBit_count, ticksHalfBit_state]

theorem whenSelected_next {i : Instr} {s t u : State} (h : whenSelected i s t = .next u) :
    armGuard i s = true ∧ u = t := by
  unfold whenSelected at h
  split at h
  · next hg => exact ⟨hg, (Host.Outcome.next.inj h).symm⟩
  · cases h

theorem whenSelected_of_guard {i : Instr} {s t : State} (h : armGuard i s = true) :
    whenSelected i s t = .next t := if_pos h

/-- All that a row can do when it completes, one line per row. -/
inductive Completes : Instr → State → State → Prop where
  | reset (v : Bool) (s : State) : Completes (.reset v) s ((restart s).emit .none)
  | sample (level : Bool) (s : State) : Completes (sampleInstr level) s (sample level s)
  | idleHigh (s : State) (h : armGuard .idleHigh s = true) :
      Completes .idleHigh s (((s.setSeenIdleHigh true).setLastLevel true).emit .none)
  | idleLowNoEdge (s : State) (h : armGuard .idleLowNoEdge s = true) :
      Completes .idleLowNoEdge s ((s.setLastLevel false).emit .none)
  | idleLowEdge (s : State) (h : armGuard .idleLowEdge s = true) :
      Completes .idleLowEdge s (((startFrame s).setLastLevel false).emit .none)
  | rxWait (v : Bool) (s : State) (h : armGuard (.rxWait v) s = true) : Completes (.rxWait v) s ((waitTick s).emit .none)
  | rxData (v : Bool) (s : State) (h : armGuard (.rxData v) s = true) : Completes (.rxData v) s ((dataInstant v s).emit .none)
  | rxStopOk (s : State) (h : armGuard .rxStopOk s = true) :
      Completes .rxStopOk s ((stopInstant true s).emit (.char s.rxByte))
  | rxStopErr (s : State) (h : armGuard .rxStopErr s = true) :
      Completes .rxStopErr s ((stopInstant false s).emit .framingError)
  | ticksOneBit (s : State) :
      Completes .ticksOneBit s
        ((s.setBitFrac (oneBitNext s.bitFracAccumulator)).answerCount (oneBitCount s.bitFracAccumulator))
  | ticksHalfBit (s : State) :
      Completes .ticksHalfBit s
        ((s.setHalfFrac (halfBitNext s.halfBitFracAccumulator)).answerCount
          ((halfBitCount s.halfBitFracAccumulator).zeroExtend 11))

theorem completes_of_exec {i : Instr} {s t : State} (h : exec i s = .next t) : Completes i s t := by
  cases i with
  | reset v => cases h; exact .reset v s
  | sample0 => cases h; exact .sample false s
  | sample1 => cases h; exact .sample true s
  | idleHigh => obtain ⟨g, rfl⟩ := whenSelected_next h; exact .idleHigh s g
  | idleLowNoEdge => obtain ⟨g, rfl⟩ := whenSelected_next h; exact .idleLowNoEdge s g
  | idleLowEdge => obtain ⟨g, rfl⟩ := whenSelected_next h; exact .idleLowEdge s g
  | rxWait v => obtain ⟨g, rfl⟩ := whenSelected_next h; exact .rxWait v s g
  | rxData v => obtain ⟨g, rfl⟩ := whenSelected_next h; exact .rxData v s g
  | rxStopOk => obtain ⟨g, rfl⟩ := whenSelected_next h; exact .rxStopOk s g
  | rxStopErr => obtain ⟨g, rfl⟩ := whenSelected_next h; exact .rxStopErr s g
  | ticksOneBit => rw [exec_ticksOneBit] at h; obtain rfl := Host.Outcome.next.inj h; exact .ticksOneBit s
  | ticksHalfBit => rw [exec_ticksHalfBit] at h; obtain rfl := Host.Outcome.next.inj h; exact .ticksHalfBit s

end Sys2Proof.Machine
end

