-- ==== Sys2Proof/Laws/PerInstr.lean ====
section
/-! SUPPORT. Families of facts about every row, one lemma per constructor. -/

namespace Sys2Proof.Laws.EncodeDefined

/-- A row has a word in the table exactly if it is not internal to the generator (R56). -/
def Statement (i : Instr) : Prop := (encode i).isSome = i.hasInputWord

theorem reset (v : Bool) : Statement (.reset v) := rfl
theorem sample0 : Statement .sample0 := rfl
theorem sample1 : Statement .sample1 := rfl
theorem idleHigh : Statement .idleHigh := rfl
theorem idleLowNoEdge : Statement .idleLowNoEdge := rfl
theorem idleLowEdge : Statement .idleLowEdge := rfl
theorem rxWait (v : Bool) : Statement (.rxWait v) := rfl
theorem rxData (v : Bool) : Statement (.rxData v) := rfl
theorem rxStopOk : Statement .rxStopOk := rfl
theorem rxStopErr : Statement .rxStopErr := rfl
theorem ticksOneBit : Statement .ticksOneBit := rfl
theorem ticksHalfBit : Statement .ticksHalfBit := rfl

end Sys2Proof.Laws.EncodeDefined
end

