-- ==== Sys2Proof/Laws/Run.lean ====
section
/-! SUPPORT. What one step can do, and runs: composing them, their events, and the wait between two instants. -/

namespace Sys2Proof.Machine

/-! #### Rule R71 and R75 in numerals are the generator's functions -/

theorem spelledOneCount_eq (s : State) : spelledOneCount s = (oneBitCount s.bitFracAccumulator).toNat :=
  (oneBitCount_toNat _).symm

theorem spelledOneNext_eq (s : State) : spelledOneNext s = (oneBitNext s.bitFracAccumulator).toNat :=
  (oneBitNext_toNat _).symm

theorem spelledHalfCount_eq (s : State) : spelledHalfCount s = (halfBitCount s.halfBitFracAccumulator).toNat :=
  (halfBitCount_toNat _).symm

/-! #### One step -/

theorem step_cons {s : State} {w : Cmd} {ws : List Cmd} (h : s.inputs = w :: ws) :
    step s = exec (decode w) (s.setInputs ws) := by
  simp [step, fetch_cons h]

theorem step_nil {s : State} (h : s.inputs = []) : step s = .refused .noInputWord := by
  simp [step, fetch_nil h]

theorem step_sample {s : State} {level : Bool} {ws : List Cmd} (h : s.inputs = sampleWord level :: ws) :
    step s = .next ((sample level s).setInputs ws) := by
  rw [step_cons h, decode_sampleWord, exec_sampleInstr, sample_setInputs]

theorem step_reset {s : State} {v : Bool} {ws : List Cmd} (h : s.inputs = packCmd true v :: ws) :
    step s = .next (((restart s).emit .none).setInputs ws) := by
  rw [step_cons h, decode_packCmd_true, exec_reset]; rfl

/-- All that a step can do: a reset step or a sample step on the first of the words presented. -/
theorem step_cases {s t : State} (h : step s = .next t) :
    (∃ v ws, s.inputs = packCmd true v :: ws ∧ t = ((restart s).emit .none).setInputs ws) ∨
      ∃ level ws, s.inputs = sampleWord level :: ws ∧ t = (sample level s).setInputs ws := by
  cases hi : s.inputs with
  | nil => rw [step_nil hi] at h; cases h
  | cons w ws =>
    rcases cmd_cases w with ⟨v, rfl⟩ | ⟨level, rfl⟩
    · rw [step_reset hi] at h; cases h; exact .inl ⟨v, ws, rfl, rfl⟩
    · rw [step_sample hi] at h; cases h; exact .inr ⟨level, ws, rfl, rfl⟩

/-! #### Runs -/

@[simp] theorem run_zero (s : State) : run 0 s = .next s := rfl

theorem run_succ {s t : State} (h : step s = .next t) (n : Nat) : run (n + 1) s = run n t := by
  simp only [run, h]

theorem run_succ_cases {n : Nat} {s t : State} (h : run (n + 1) s = .next t) :
    ∃ u, step s = .next u ∧ run n u = .next t := by
  rw [run] at h
  cases hs : step s with
  | next u => rw [hs] at h; exact ⟨u, rfl, h⟩
  | fault r => exact nomatch r
  | refused r => rw [hs] at h; cases h

theorem run_add {n : Nat} : ∀ {s t : State}, run n s = .next t → ∀ m, run (n + m) s = run m t := by
  induction n with
  | zero => intro s t h m; cases h; rw [Nat.zero_add]
  | succ n ih =>
    intro s t h m
    obtain ⟨u, hu, hr⟩ := run_succ_cases h
    rw [show n + 1 + m = n + m + 1 by omega, run_succ hu]
    exact ih hr m

@[simp] theorem eventTrace_zero (s : State) : eventTrace 0 s = [] := rfl

theorem eventTrace_succ {s t : State} (h : step s = .next t) (n : Nat) :
    eventTrace (n + 1) s = t.event :: eventTrace n t := by
  simp [eventTrace, h]

theorem eventTrace_add {n : Nat} : ∀ {s t : State}, run n s = .next t →
    ∀ m, eventTrace (n + m) s = eventTrace n s ++ eventTrace m t := by
  induction n with
  | zero => intro s t h m; cases h; simp
  | succ n ih =>
    intro s t h m
    obtain ⟨u, hu, hr⟩ := run_succ_cases h
    rw [show n + 1 + m = n + m + 1 by omega, eventTrace_succ hu, eventTrace_succ hu, ih hr m, List.cons_append]

/-- A property that every step keeps holds along every run. -/
theorem run_keeps {P : State → Prop} (hP : ∀ s t, P s → step s = .next t → P t) {n : Nat} :
    ∀ {s t : State}, P s → run n s = .next t → P t := by
  induction n with
  | zero => intro s t hs h; cases h; exact hs
  | succ n ih =>
    intro s t hs h
    obtain ⟨u, hu, hr⟩ := run_succ_cases h
    exact ih (hP s u hs hu) hr

@[simp] theorem sampleWords_nil : sampleWords [] = [] := rfl

@[simp] theorem sampleWords_cons (l : Bool) (ls : List Bool) : sampleWords (l :: ls) = sampleWord l :: sampleWords ls := rfl

@[simp] theorem sampleWords_append (a b : List Bool) : sampleWords (a ++ b) = sampleWords a ++ sampleWords b :=
  List.map_append

@[simp] theorem length_sampleWords (a : List Bool) : (sampleWords a).length = a.length := List.length_map _

/-! #### The wait between two instants (R96) -/

/-- What `n` waiting steps leave, the words after them being `rest`. -/
def afterWait (n : Nat) (rest : List Cmd) (s : State) : State :=
  { s with
    ticksUntilSample := BitVec.ofNat 12 (s.ticksUntilSample.toNat - n)
    event := if n = 0 then s.event else .none
    genCount := if n = 0 then s.genCount else none
    inputs := rest }

/-! #### The fields after waiting steps -/

section
variable (n : Nat) (rest : List Cmd) (s : State)

@[simp] theorem afterWait_bitFracAccumulator : (afterWait n rest s).bitFracAccumulator = s.bitFracAccumulator := rfl
@[simp] theorem afterWait_halfBitFracAccumulator : (afterWait n rest s).halfBitFracAccumulator = s.halfBitFracAccumulator := rfl
@[simp] theorem afterWait_isReceiving : (afterWait n rest s).isReceiving = s.isReceiving := rfl
@[simp] theorem afterWait_bitIndex : (afterWait n rest s).bitIndex = s.bitIndex := rfl
@[simp] theorem afterWait_rxByte : (afterWait n rest s).rxByte = s.rxByte := rfl
@[simp] theorem afterWait_lastLevel : (afterWait n rest s).lastLevel = s.lastLevel := rfl
@[simp] theorem afterWait_seenIdleHigh : (afterWait n rest s).seenIdleHigh = s.seenIdleHigh := rfl
@[simp] theorem afterWait_inputs : (afterWait n rest s).inputs = rest := rfl

@[simp] theorem afterWait_ticks_toNat :
    (afterWait n rest s).ticksUntilSample.toNat = s.ticksUntilSample.toNat - n := by
  have := s.ticksUntilSample.isLt
  simp only [afterWait, BitVec.toNat_ofNat]
  omega

end

/-- A waiting step and then `n` more are `n + 1` waiting steps. -/
theorem afterWait_succ (n : Nat) (rest ws : List Cmd) (s : State) :
    afterWait n rest (((waitTick s).emit .none).setInputs ws) = afterWait (n + 1) rest s := by
  have ht : (((waitTick s).emit .none).setInputs ws).ticksUntilSample.toNat = s.ticksUntilSample.toNat - 1 := by simp
  rw [afterWait, afterWait, ht, Nat.sub_sub, Nat.add_comm 1]
  cases n <;> rfl

/-- Waiting steps count down, emit nothing and ignore the line. -/
theorem run_wait {levels : List Bool} : ∀ {s : State} {rest : List Cmd}, s.isReceiving = true →
    levels.length ≤ s.ticksUntilSample.toNat → s.inputs = sampleWords levels ++ rest →
    run levels.length s = .next (afterWait levels.length rest s) ∧
      eventTrace levels.length s = List.replicate levels.length .none := by
  induction levels with
  | nil =>
    intro s rest _ _ hi
    simp only [sampleWords_nil, List.nil_append] at hi
    subst hi
    simp [afterWait]
  | cons l ls ih =>
    intro s rest hr hn hi
    simp only [List.length_cons] at hn
    have hst := step_sample (s := s) (level := l) (ws := sampleWords ls ++ rest) hi
    rw [sample_wait hr (by omega)] at hst
    obtain ⟨h₁, h₂⟩ := ih (rest := rest) (s := ((waitTick s).emit .none).setInputs (sampleWords ls ++ rest))
      (by simpa using hr) (by simp; omega) rfl
    rw [List.length_cons, run_succ hst, eventTrace_succ hst, h₁, h₂, afterWait_succ]
    exact ⟨rfl, by simp [List.replicate_succ]⟩

end Sys2Proof.Machine
end

