-- ==== Sys2Proof/Tests/Slice0.lean ====
section
/-! SUPPORT. The model's own tests. Expected results are those of spec/95_test_vectors.md (named V-…, W…, P…), of the
worked examples of the rules, or words written out by hand from rules R52, R53 and R60. The last part shows, for each
statement with hypotheses, states that meet them. -/

namespace Sys2Proof.Tests

open Sys2Proof.Machine

/-- A state written as spec/95_test_vectors.md writes it: `(isReceiving, ticksUntilSample, bitIndex, rxByte, lastLevel,
seenIdleHigh, bitFracAccumulator, halfBitFracAccumulator)`. -/
def st (rcv : Bool) (ticks idx byte : Nat) (last seen : Bool) (bf hf : Nat) : State :=
  { State.reset with
    isReceiving := rcv
    ticksUntilSample := BitVec.ofNat 12 ticks
    bitIndex := BitVec.ofNat 4 idx
    rxByte := BitVec.ofNat 8 byte
    lastLevel := last
    seenIdleHigh := seen
    bitFracAccumulator := BitVec.ofNat 17 bf
    halfBitFracAccumulator := BitVec.ofNat 2 hf }

/-- The same state with the event of the step and the words still to come. -/
def after (s : State) (e : Event) : State := { s with event := e }

/-- The two states agree field by field. -/
def agrees (u t : State) : Bool :=
  u.bitFracAccumulator == t.bitFracAccumulator && u.halfBitFracAccumulator == t.halfBitFracAccumulator &&
    u.isReceiving == t.isReceiving && u.ticksUntilSample == t.ticksUntilSample && u.bitIndex == t.bitIndex &&
    u.rxByte == t.rxByte && u.lastLevel == t.lastLevel && u.seenIdleHigh == t.seenIdleHigh && u.event == t.event &&
    u.genCount == t.genCount && u.inputs == t.inputs

/-- The answer is the next state `t`. -/
def gives (o : Answer) (t : State) : Bool :=
  match o with
  | .next u => agrees u t
  | .fault _ => false
  | .refused _ => false

/-- The answer is this refusal. -/
def refuses (o : Answer) (r : Refusal) : Bool :=
  match o with
  | .next _ => false
  | .fault _ => false
  | .refused q => decide (q = r)

/-! ### WellFormed: an ill-formed term for each check -/

theorem test_wellFormed_refuses_internal : Instr.hasInputWord .ticksOneBit = false := by decide
theorem test_wellFormed_refuses_arm : Instr.chosenWithoutState .rxStopOk = false := by decide
theorem test_wellFormed_accepts_reset : Instr.wellFormed (.reset true) = true := by decide
theorem test_wellFormed_refuses_empty_item : StimulusItem.wellFormed ⟨.high, 0⟩ = false := by decide

/-! ### Decoding: words written out from R52 and R53 (`cmd = [rst, rx]`), and the arms by word and state (R56) -/

theorem test_decode_10 : decode 0b10#2 = .reset false := by decide
theorem test_decode_11 : decode 0b11#2 = .reset true := by decide
theorem test_decode_00 : decode 0b00#2 = .sample0 := by decide
theorem test_decode_01 : decode 0b01#2 = .sample1 := by decide
theorem test_decode_rejects_wide : decodeTableWord 8 4 = none := by decide
theorem test_decodeIn_idleHigh : decodeIn State.reset 0b01#2 = .idleHigh := by decide
theorem test_decodeIn_idleLowNoEdge : decodeIn State.reset 0b00#2 = .idleLowNoEdge := by decide
theorem test_decodeIn_idleLowEdge : decodeIn (st false 0 0 0 true true 0 0) 0b00#2 = .idleLowEdge := by decide
theorem test_decodeIn_rxWait : decodeIn (st true 1 0 0 false true 0 0) 0b01#2 = .rxWait true := by decide
theorem test_decodeIn_rxData : decodeIn (st true 0 7 0 false true 0 0) 0b00#2 = .rxData false := by decide
theorem test_decodeIn_rxStopOk : decodeIn (st true 0 8 0 false true 0 0) 0b01#2 = .rxStopOk := by decide
theorem test_decodeIn_rxStopErr : decodeIn (st true 0 15 0 false true 0 0) 0b00#2 = .rxStopErr := by decide
theorem test_encode_internal : encode .ticksOneBit = none ∧ encode .ticksHalfBit = none := by decide

/-! ### One step of each row -/

/-- V-F10. -/
theorem test_reset_midframe :
    gives (exec (.reset false) (st true 100 3 5 false true 57600 2)) State.reset = true := by decide

/-- V-F4c, by the command `SAMPLE 0`. -/
theorem test_sample0_edge_half_wraps :
    gives (exec .sample0 (st false 0 0 0 true true 0 3)) (st true 2344 0 0 false true 57600 0) = true := by decide

/-- V-F7a, by the command `SAMPLE 1`. -/
theorem test_sample1_stop_zero_byte :
    gives (exec .sample1 (st true 0 8 0 false true 0 0)) (after (st false 0 8 0 false true 0 0) (.char 0)) = true := by
  decide

/-- V-F1. -/
theorem test_idleHigh_from_reset :
    gives (exec .idleHigh State.reset) (st false 0 0 0 true true 0 0) = true := by decide

/-- V-F2: `lastLevel = 1` at reset, but no logic-1 has been seen. -/
theorem test_idleLowNoEdge_cold_start :
    gives (exec .idleLowNoEdge State.reset) (st false 0 0 0 false false 0 0) = true := by decide

/-- V-F3b. -/
theorem test_idleLowNoEdge_after_frame :
    gives (exec .idleLowNoEdge (st false 0 8 0x41 false true 0 0)) (st false 0 8 0x41 false true 0 0) = true := by
  decide

/-- V-F4a. -/
theorem test_idleLowEdge_smallest_count :
    gives (exec .idleLowEdge (st false 0 0 0 true true 0 0)) (st true 2343 0 0 false true 57600 1) = true := by decide

/-- V-F4d. -/
theorem test_idleLowEdge_largest_count :
    gives (exec .idleLowEdge (st false 0 0 0 true true 57600 3)) (st true 2345 0 0 false true 0 0) = true := by decide

/-- V-F5a. -/
theorem test_rxWait_last_tick :
    gives (exec (.rxWait false) (st true 1 0 0 false true 0 0)) (st true 0 0 0 false true 0 0) = true := by decide

/-- V-F5b. -/
theorem test_rxWait_ignores_level :
    gives (exec (.rxWait true) (st true 2345 0 0 false true 0 0)) (st true 2344 0 0 false true 0 0) = true := by decide

/-- R97's worked example: the level goes to bit 6, bit 0 stays. -/
theorem test_rxData_keeps_other_bits :
    gives (exec (.rxData true) (st true 0 6 0x01 false true 0 0)) (st true 1562 7 0x41 false true 57600 0) = true := by
  decide

/-- V-F6c. -/
theorem test_rxData_last_bit :
    gives (exec (.rxData true) (st true 0 7 0x7F false true 57600 0)) (st true 1563 8 0xFF false true 0 0) = true := by
  decide

/-- V-F7b. -/
theorem test_rxStopOk_emits :
    gives (exec .rxStopOk (st true 0 8 0xFF false true 0 0))
      (after (st false 0 8 0xFF false true 0 0) (.char 0xFF)) = true := by decide

/-- V-F9. -/
theorem test_rxStopOk_unreachable_index :
    gives (exec .rxStopOk (st true 0 9 0x12 false true 0 0))
      (after (st false 0 9 0x12 false true 0 0) (.char 0x12)) = true := by decide

/-- V-F8. -/
theorem test_rxStopErr_reports :
    gives (exec .rxStopErr (st true 0 8 0x41 false true 0 0))
      (after (st false 0 8 0x41 false true 0 0) .framingError) = true := by decide

/-- V-G1b. -/
theorem test_ticksOneBit_carries_at_equality :
    gives (exec .ticksOneBit (st false 0 0 0 true false 57600 0))
      { State.reset with genCount := some 1563 } = true := by decide

/-- V-G1d: the sum is one below `B`. -/
theorem test_ticksOneBit_no_carry_below :
    gives (exec .ticksOneBit (st false 0 0 0 true false 57599 0))
      { st false 0 0 0 true false 115199 0 with genCount := some 1562 } = true := by decide

/-- V-H1c. -/
theorem test_ticksHalfBit_counts :
    gives (exec .ticksHalfBit (st false 0 0 0 true false 0 2))
      { st false 0 0 0 true false 0 3 with genCount := some 781 } = true := by decide

/-- V-H1d. -/
theorem test_ticksHalfBit_wraps :
    gives (exec .ticksHalfBit (st false 0 0 0 true false 0 3))
      { State.reset with genCount := some 782 } = true := by decide

/-- R56: a stop arm is not taken while the countdown runs. -/
theorem test_arm_outside_its_condition :
    refuses (exec .rxStopOk (st true 1 8 0 false true 0 0)) .armNotSelected = true := by decide

/-! ### Steps and the host's entry -/

theorem test_step_runs_presented_word :
    gives (step (State.reset.withFetchWord 8 1)) (st false 0 0 0 true true 0 0) = true := by decide

theorem test_step_without_word : refuses (step State.reset) .noInputWord = true := by decide

/-- R61 on `0x41`, written out: start, bits 1 0 0 0 0 0 1 0, stop. -/
theorem test_frame_items :
    frameItems 0x41 true =
      [⟨.low, 1562⟩, ⟨.high, 1563⟩, ⟨.low, 1562⟩, ⟨.low, 1563⟩, ⟨.low, 1562⟩, ⟨.low, 1563⟩, ⟨.low, 1562⟩,
        ⟨.high, 1563⟩, ⟨.low, 1562⟩, ⟨.high, 1563⟩] := by decide

/-- V-T1, phase (57600, 3). -/
theorem test_instant_offsets :
    (List.range 9).map (instantOffset 57600 3) =
      [2346, 3909, 5473, 7036, 8600, 10163, 11727, 13290, 14854] := by decide

/-- R43. -/
theorem test_byte_of_levels : byteOfLevels (fun k => k == 0 || k == 6) = 0x41#8 := by decide

/-! ### Witnesses: states that meet the hypotheses of the statements, at the edges of their ranges -/

/-- Idle, ready for an edge, with these words to come. -/
def ready (ws : List Cmd) : State := { st false 0 0 0 true true 0 0 with inputs := ws }

/-- Idle just after a frame: `lastLevel = 0` and `seenIdleHigh = 1`. -/
def rested (ws : List Cmd) : State := { st false 0 8 0x41 false true 0 0 with inputs := ws }

/-- Receiving, with this countdown and bit index. -/
def mid (ticks idx : Nat) (ws : List Cmd) : State := { st true ticks idx 0 false true 57600 1 with inputs := ws }

/-- CommandWordsRoundTrip: a well-formed row, and one that is not. -/
theorem witness_wellFormed_both : Instr.wellFormed (.reset true) = true ∧ Instr.wellFormed .idleHigh = false := by decide

/-- ExactlyOneArmIsSelected, its second part: the smallest and the largest such index. -/
theorem witness_unreachable_index : ∀ i ∈ [9, 15],
    (mid 0 i []).isReceiving = true ∧ (mid 0 i []).ticksUntilSample.toNat = 0 ∧ 9 ≤ (mid 0 i []).bitIndex.toNat := by decide

/-- ArmRunsExactlyWhereSelected: an arm with a true and with a false condition. -/
theorem witness_arm_guards : Instr.isArm .rxStopOk = true ∧ armGuard .rxStopOk (mid 0 8 []) = true ∧
    armGuard .rxStopOk (mid 1 8 []) = false := by decide

/-- StepRunsTheDecodedWord, StepAlwaysCompletesOnAWord: a presented word, and none. -/
theorem witness_words : (ready [3#2, 0#2]).inputs = 3#2 :: [0#2] ∧ (ready []).inputs = [] := by decide

/-- SampleFollowsItsPseudocode and the statements of the Idle arms: each Idle path. -/
theorem witness_idle_paths :
    (State.reset.isReceiving = false ∧ ¬(State.reset.seenIdleHigh = true ∧ State.reset.lastLevel = true)) ∧
      ((rested []).isReceiving = false ∧ ¬((rested []).seenIdleHigh = true ∧ (rested []).lastLevel = true)) ∧
      ((ready []).isReceiving = false ∧ (ready []).seenIdleHigh = true ∧ (ready []).lastLevel = true) := by decide

/-- The same and the statements of the Receiving arms: each Receiving path at both ends of its range. -/
theorem witness_receiving_paths :
    (∀ c ∈ [1, 4095], (mid c 0 []).isReceiving = true ∧ 0 < (mid c 0 []).ticksUntilSample.toNat) ∧
      (∀ i ∈ [0, 7], (mid 0 i []).isReceiving = true ∧ (mid 0 i []).ticksUntilSample.toNat = 0 ∧
        (mid 0 i []).bitIndex.toNat < 8) ∧
      (∀ i ∈ [8, 15], (mid 0 i []).isReceiving = true ∧ (mid 0 i []).ticksUntilSample.toNat = 0 ∧
        8 ≤ (mid 0 i []).bitIndex.toNat) := by decide

/-- RepeatedIdleHighChangesNothingMore. -/
theorem witness_repeated_high :
    (rested (List.replicate 3 1#2 ++ [0#2])).isReceiving = false ∧
      (rested (List.replicate 3 1#2 ++ [0#2])).inputs = List.replicate (2 + 1) 1#2 ++ [0#2] := by decide

/-- TicksOneBitAddsAndCarries: the last sum without a carry, the first with one. -/
theorem witness_carry_boundary :
    57600 + (st false 0 0 0 true false 57599 0).bitFracAccumulator.toNat < 115200 ∧
      115200 ≤ 57600 + (st false 0 0 0 true false 57600 0).bitFracAccumulator.toNat := by decide

/-- TicksHalfBitAdvancesAndWraps: both cases at their edge. -/
theorem witness_wrap_boundary :
    (st false 0 0 0 true false 0 2).halfBitFracAccumulator.toNat < 3 ∧
      (st false 0 0 0 true false 0 3).halfBitFracAccumulator.toNat = 3 := by decide

/-- TicksOneBitAddsAndCarries, its last parts; OneBitCountsAlternate, OneBitCountsSumToTheSampleRate,
HalfBitCountsFollowTheCounter. -/
theorem witness_generator_states :
    (State.reset.bitFracAccumulator = 0 ∧ State.reset.halfBitFracAccumulator = 0) ∧
      (st false 0 0 0 true false 115199 0).bitFracAccumulator.toNat < 115200 ∧
      (st false 0 0 0 true false 57600 0).bitFracAccumulator = 57600 := by decide

/-- AccumulatorStaysBelowBaud at the largest legal value; EachFieldHasItsWriters and ModelsOwnFieldsFollowTheirLogEntries
for a row they speak of. -/
theorem witness_exec_next :
    (∃ t, exec .ticksOneBit ((ready []).setBitFrac 115199) = .next t) ∧
      ((ready []).setBitFrac 115199).bitFracAccumulator.toNat < 115200 :=
  ⟨⟨_, exec_ticksOneBit _⟩, by decide⟩

/-- IdleHighSetsSeenAndLastLevel and ResetWritesEveryField, their second parts. -/
theorem witness_idleHigh_next :
    exec .idleHigh (rested []) = .next ((((rested []).setSeenIdleHigh true).setLastLevel true).emit .none) :=
  whenSelected_of_guard (i := .idleHigh) (s := rested []) (by decide)

theorem witness_reset_next (v : Bool) :
    exec (.reset v) (mid 5 3 []) = .next ((restart (mid 5 3 [])).emit .none) := exec_reset v _

/-- The statements about a step on a presented word: a reset word and a sample word, in Idle, at a data instant, at a stop
instant and while waiting (GeneratorRunsOnlyAtEdgeAndDataInstants, ReceivingBeginsAtEdgeAndEndsAtStop,
SeenIdleHighIsStickyUntilReset, EveryStepProducesItsOneEvent, StepKeepsTheReachableConditions). -/
theorem witness_steps :
    (∀ v, ∃ t, step (mid 0 8 [packCmd true v]) = .next t) ∧ (∃ t, step (ready [sampleWord false]) = .next t) ∧
      (∃ t, step (rested [sampleWord true]) = .next t) ∧
      (∃ t, step (mid 0 7 [sampleWord true]) = .next t) ∧ (∃ t, step (mid 0 8 [sampleWord false]) = .next t) ∧
      (∃ t, step (mid 0 8 [sampleWord true]) = .next t) ∧ ∃ t, step (mid 1 0 [sampleWord true]) = .next t :=
  ⟨fun _ => ⟨_, step_reset rfl⟩, ⟨_, step_sample rfl⟩, ⟨_, step_sample rfl⟩, ⟨_, step_sample rfl⟩, ⟨_, step_sample rfl⟩,
    ⟨_, step_sample rfl⟩, ⟨_, step_sample rfl⟩⟩

/-- StepKeepsTheReachableConditions, NextEdgeAfterAStopInstant: a state at a stop instant that meets the conditions. -/
theorem witness_inv_at_stop : Inv (mid 0 8 [0#2]) where
  phase := .inr rfl
  seen := by decide
  countdown := by decide
  unsampled := by intro _ k _ _; simp [mid, st]
  index := by decide
  stopCountdown := by decide
  edgeLevel := by decide

/-- NextFrameMayFollowAfterTwoTicks, StreamOfFramesIsDecoded: a state ready for an edge that meets the conditions. -/
theorem witness_inv_ready (ws : List Cmd) : Inv (ready ws) where
  phase := .inl rfl
  seen := nofun
  countdown := nofun
  unsampled := nofun
  index := by show 0 ≤ 8; decide
  stopCountdown := nofun
  edgeLevel := nofun

theorem witness_edge_ready (ws : List Cmd) : EdgeReady (ready ws) := ⟨rfl, rfl, rfl⟩

/-- InstancesDoNotAffectEachOther: instance 1 of two. -/
theorem witness_instances : ∃ b', stepInstance 1 [ready [], ready [sampleWord true]] = some b' := by
  have h := step_sample (s := ready [sampleWord true]) (level := true) (ws := []) rfl
  simp only [stepInstance, List.getElem?_cons_succ, List.getElem?_cons_zero, h]
  exact ⟨_, rfl⟩

/-- EveryReachableStateMeetsTheInvariants: a run of no step; after a reset step; and from reset on a low line. -/
theorem witness_runs :
    (run 0 { State.reset with inputs := [] } = .next { State.reset with inputs := [] }) ∧
      (∃ t, run ([packCmd true false].length + [false].length)
        { State.reset with inputs := [packCmd true false] ++ sampleWords [false] ++ [] } = .next t ∧
          t.seenIdleHigh = false) ∧
      ([packCmd true false].getLast? = some (packCmd true false)) := by
  have h₁ := step_reset (s := { State.reset with inputs := [packCmd true false, sampleWord false] }) (v := false)
    (ws := [sampleWord false]) rfl
  have h₂ := step_sample (level := false) (ws := []) (s := State.setInputs [sampleWord false]
    ((restart { State.reset with inputs := [packCmd true false, sampleWord false] }).emit .none)) rfl
  rw [sample_idle_noEdge rfl rfl] at h₂
  exact ⟨rfl, ⟨_, (run_succ h₁ 1).trans (run_succ h₂ 0), rfl⟩, rfl⟩

/-- FrameLaw: a whole frame on a line that is low at the edge call and high after it. -/
theorem witness_frame : ∃ (s : State) (levels : List Bool) (rest : List Cmd), EdgeReady s ∧
    levels.length = instantOffset s.bitFracAccumulator s.halfBitFracAccumulator 8 + 1 ∧
    levels.head? = some false ∧ s.inputs = sampleWords levels ++ rest :=
  ⟨ready (sampleWords (false :: List.replicate (instantOffset 0 0 8) true) ++ [2#2]),
    false :: List.replicate (instantOffset 0 0 8) true, [2#2], witness_edge_ready _,
    by rw [List.length_cons, List.length_replicate]; rfl, rfl, rfl⟩

/-- SamplingInstantsAreTheTable: its first row and its last, on a line that stays low. -/
theorem witness_table : ∀ p ∈ [(0, 0), (57600, 3)], ∃ (s : State) (levels : List Bool) (rest : List Cmd), EdgeReady s ∧
    s.bitFracAccumulator.toNat = p.1 ∧ s.halfBitFracAccumulator.toNat = p.2 ∧ levels.head? = some false ∧
    levels.length = 14855 ∧ s.inputs = sampleWords levels ++ rest := by
  intro p hp
  refine ⟨{ st false 0 0 0 true true p.1 p.2 with inputs := sampleWords (false :: List.replicate 14854 false) ++ [] },
    false :: List.replicate 14854 false, [], ⟨rfl, rfl, rfl⟩, ?_, ?_, rfl, ?_, rfl⟩
  · revert p; decide
  · revert p; decide
  · rw [List.length_cons, List.length_replicate]

/-- LevelsBetweenInstantsHaveNoEffect: two different sequences of the length of the wait. -/
theorem witness_waits : (mid 2 0 []).isReceiving = true ∧
    [true, false].length = (mid 2 0 []).ticksUntilSample.toNat ∧ [false, true].length = (mid 2 0 []).ticksUntilSample.toNat := by
  decide

/-- NextEdgeAfterAStopInstant, its second part: no step, and a sequence with low and high levels and no fall. -/
theorem witness_no_fall : ∀ ls ∈ [[], [false, false, true]], hasFall ls = false ∧
    (rested (sampleWords (ls ++ [false]))).inputs = sampleWords (ls ++ [false]) ++ [] ∧
    (rested (sampleWords ls)).isReceiving = false ∧ (rested (sampleWords ls)).lastLevel = false ∧
    (rested (sampleWords ls)).seenIdleHigh = true := by decide

/-- NextFrameMayFollowAfterTwoTicks. -/
theorem witness_next_frame : ∃ (s : State) (levels : List Bool) (rest : List Cmd), Inv s ∧ EdgeReady s ∧
    levels.length = instantOffset s.bitFracAccumulator s.halfBitFracAccumulator 8 + 1 ∧
    levels.head? = some false ∧ s.inputs = sampleWords (levels ++ [true, false]) ++ rest :=
  ⟨ready (sampleWords ((false :: List.replicate (instantOffset 0 0 8) true) ++ [true, false]) ++ []),
    false :: List.replicate (instantOffset 0 0 8) true, [], witness_inv_ready _, witness_edge_ready _,
    by rw [List.length_cons, List.length_replicate]; rfl, rfl, rfl⟩

/-- StreamOfFramesIsDecoded: a good frame with no gap, then a frame with a bad stop bit and a gap of one tick. -/
theorem witness_stream : ∃ (s : State) (lead : Nat) (frames : List StreamFrame) (rest : List Cmd), Inv s ∧
    s.isReceiving = false ∧ 1 ≤ lead ∧ (∀ f ∈ frames, f.stop = false → 1 ≤ f.gap) ∧ frames.length = 2 ∧
    s.inputs = stimulusWords (idleItems lead) ++ frames.flatMap StreamFrame.words ++ rest :=
  ⟨ready (stimulusWords (idleItems 1) ++ [⟨0x41, true, 0⟩, ⟨0x42, false, 1⟩].flatMap StreamFrame.words ++ []), 1,
    [⟨0x41, true, 0⟩, ⟨0x42, false, 1⟩], [], witness_inv_ready _, rfl, Nat.le_refl 1, by decide, rfl, rfl⟩

end Sys2Proof.Tests
end

section
/-! SUPPORT. What a step on a presented word does to the flags (R23, R27, R28), path by path of R90, and what every row
does to `bitFracAccumulator` (R71, R150). -/

namespace Sys2Proof

theorem packCmd_true_number (v : Bool) : packCmd true v = 2#2 ∨ packCmd true v = 3#2 := by
  revert v; decide

@[simp] theorem sampleWord_eq_zero_iff (level : Bool) : sampleWord level = 0#2 ↔ level = false := by
  revert level; decide

@[simp] theorem sampleWord_eq_one_iff (level : Bool) : sampleWord level = 1#2 ↔ level = true := by
  revert level; decide

@[simp] theorem sampleWord_ne_two (level : Bool) : sampleWord level ≠ 2#2 := by
  revert level; decide

@[simp] theorem sampleWord_ne_three (level : Bool) : sampleWord level ≠ 3#2 := by
  revert level; decide

theorem packCmd_true_ne_zero (v : Bool) : packCmd true v ≠ 0#2 := by
  revert v; decide

theorem packCmd_true_ne_one (v : Bool) : packCmd true v ≠ 1#2 := by
  revert v; decide

namespace Machine

variable {s t : State}

/-- `step_cases` with the presented word given. -/
theorem step_cases_of_inputs {w : Cmd} {ws : List Cmd} (hi : s.inputs = w :: ws) (h : step s = .next t) :
    (∃ v, w = packCmd true v ∧ t = ((restart s).emit .none).setInputs ws) ∨
      ∃ level, w = sampleWord level ∧ t = (sample level s).setInputs ws := by
  obtain ⟨v, ws', hi', rfl⟩ | ⟨level, ws', hi', rfl⟩ := step_cases h <;>
    obtain ⟨rfl, rfl⟩ := List.cons.inj (hi.symm.trans hi')
  · exact .inl ⟨v, rfl, rfl⟩
  · exact .inr ⟨level, rfl, rfl⟩

/-- The flags after an Idle step: Receiving exactly after a start edge, the level in `lastLevel` (R27), and
`seenIdleHigh` sticky (R28). -/
theorem sample_flags_of_idle (level : Bool) (h : s.isReceiving = false) :
    (sample level s).isReceiving = startEdge s level ∧ (sample level s).lastLevel = level ∧
      (sample level s).seenIdleHigh = (s.seenIdleHigh || level) := by
  cases level with
  | true => simp [sample_idle_high h, h, startEdge]
  | false =>
    cases hn : s.seenIdleHigh && s.lastLevel with
    | false => simp [sample_idle_noEdge h hn, h, startEdge, hn]
    | true => simp [sample_idle_edge h hn, startEdge, hn]

/-- The flags after a step in Receiving: Idle exactly after the stop instant, the two others as they were (R95). -/
theorem sample_flags_of_receiving (level : Bool) (h : s.isReceiving = true) :
    (sample level s).isReceiving = !atStopInstant s ∧ (sample level s).lastLevel = s.lastLevel ∧
      (sample level s).seenIdleHigh = s.seenIdleHigh := by
  rcases Nat.eq_zero_or_pos s.ticksUntilSample.toNat with ht | ht
  · rcases Nat.lt_or_ge s.bitIndex.toNat 8 with hb | hb
    · simp [sample_data h ht hb, h, atStopInstant, dataBits_eq, Nat.not_le.2 hb]
    · simp [sample_stop h ht hb, h, ht, atStopInstant, atInstant, dataBits_eq, hb]
  · simp [sample_wait h ht, h, atStopInstant, atInstant, Nat.ne_of_gt ht]

/-- A `SAMPLE` step leaves the one-bit accumulator or advances it once (R79). -/
theorem sample_bitFrac_cases (level : Bool) (s : State) :
    (sample level s).bitFracAccumulator = s.bitFracAccumulator ∨
      (sample level s).bitFracAccumulator = oneBitNext s.bitFracAccumulator := by
  rcases samplePath level s with ⟨h, rfl⟩ | ⟨h, rfl, hn⟩ | ⟨h, rfl, hn⟩ | ⟨h, ht⟩ | ⟨h, ht, hb⟩ | ⟨h, ht, hb⟩
  · simp [sample_idle_high h]
  · simp [sample_idle_noEdge h hn]
  · simp [sample_idle_edge h hn]
  · simp [sample_wait h ht]
  · simp [sample_data h ht hb]
  · simp [sample_stop h ht hb]

/-- A row that completes clears the one-bit accumulator, leaves it, or advances it once. -/
theorem Completes.bitFrac_cases {i : Instr} (h : Completes i s t) :
    t.bitFracAccumulator = 0 ∨ t.bitFracAccumulator = s.bitFracAccumulator ∨
      t.bitFracAccumulator = oneBitNext s.bitFracAccumulator := by
  cases h with
  | sample level => exact .inr (sample_bitFrac_cases level s)
  | reset => simp
  | idleHigh => simp
  | idleLowNoEdge => simp
  | idleLowEdge => simp
  | rxWait => simp
  | rxData => simp
  | rxStopOk => simp
  | rxStopErr => simp
  | ticksOneBit => simp
  | ticksHalfBit => simp

theorem oneBitNext_lt_baud {a : BitFrac} (h : a.toNat < 115200) : (oneBitNext a).toNat < 115200 := by
  rw [oneBitNext_toNat]
  split <;> omega

/-- The two phases of R35 item 1 alternate. -/
theorem oneBitNext_keeps_phase {a : BitFrac} (h : a = 0 ∨ a = 57600) : oneBitNext a = 0 ∨ oneBitNext a = 57600 := by
  obtain rfl | rfl := h
  · exact .inr oneBitNext_zero
  · exact .inl oneBitNext_phase

end Machine
end Sys2Proof
end

section
/-! SUPPORT. The conditions of R35 on one state hold after reset and are kept by every step (O40, O39). -/

namespace Sys2Proof.Machine

variable {s : State}

/-- In Idle only items 1 and 5 of R35 say something. -/
theorem Inv.of_idle (hr : s.isReceiving = false) (hp : s.bitFracAccumulator = 0 ∨ s.bitFracAccumulator = 57600)
    (hb : s.bitIndex.toNat ≤ 8) : Inv s where
  phase := hp
  index := hb
  seen h := by simp [hr] at h
  countdown h := by simp [hr] at h
  unsampled h := by simp [hr] at h
  stopCountdown h := by simp [hr] at h
  edgeLevel h := by simp [hr] at h

/-- The conditions of R35 do not speak of the words to come. -/
theorem Inv.setInputs (h : Inv s) (ws : List Cmd) : Inv (s.setInputs ws) :=
  ⟨h.phase, h.seen, h.countdown, h.unsampled, h.index, h.stopCountdown, h.edgeLevel⟩

/-- The conditions of R35 do not speak of the event. -/
theorem Inv.emit (h : Inv s) (e : Event) : Inv (s.emit e) :=
  ⟨h.phase, h.seen, h.countdown, h.unsampled, h.index, h.stopCountdown, h.edgeLevel⟩

theorem inv_restart (s : State) : Inv (restart s) := .of_idle rfl (.inl rfl) (by simp)

/-- The edge call: the first countdown is the sum of the two counts (R93). -/
theorem Inv.startFrame (h : Inv s) (hn : s.seenIdleHigh = true) : Inv ((startFrame s).setLastLevel false) where
  phase := by simpa using oneBitNext_keeps_phase h.phase
  seen _ := by simpa using hn
  countdown _ := by
    have := halfBitCount_cases s.halfBitFracAccumulator
    have := oneBitCount_cases s.bitFracAccumulator
    simp only [State.setLastLevel_ticksUntilSample, startFrame_ticks_toNat]
    omega
  unsampled _ k _ _ := by simp
  index := by simp
  stopCountdown _ h8 := by simp at h8
  edgeLevel _ := by simp

theorem Inv.waitTick (h : Inv s) : Inv (waitTick s) where
  phase := h.phase
  seen := h.seen
  countdown hr := by
    have := h.countdown hr
    rw [waitTick_ticks_toNat]
    omega
  unsampled := h.unsampled
  index := h.index
  stopCountdown hr h8 := by
    have := h.stopCountdown hr h8
    rw [waitTick_ticks_toNat]
    omega
  edgeLevel := h.edgeLevel

/-- A data instant: the bit written is the one at the old `bitIndex`, and the new countdown is one bit's count (R97). -/
theorem Inv.dataInstant (h : Inv s) (level : Bool) (hr : s.isReceiving = true) (hb : s.bitIndex.toNat < 8) :
    Inv (dataInstant level s) where
  phase := by simpa using oneBitNext_keeps_phase h.phase
  seen _ := by simpa using h.seen hr
  countdown _ := by
    have := oneBitCount_cases s.bitFracAccumulator
    rw [dataInstant_ticks_toNat]
    omega
  unsampled _ k hk hk8 := by
    rw [dataInstant_bitIndex_toNat _ _ hb] at hk
    rw [dataInstant_rxByte, writeBit_getLsbD _ _ _ _ hk8, if_neg (by omega)]
    exact h.unsampled hr k (by omega) hk8
  index := by
    rw [dataInstant_bitIndex_toNat _ _ hb]
    omega
  stopCountdown _ _ := by
    have := oneBitCount_cases s.bitFracAccumulator
    rw [dataInstant_ticks_toNat]
    omega
  edgeLevel _ := by simpa using h.edgeLevel hr

theorem Inv.sample (h : Inv s) (level : Bool) : Inv (sample level s) := by
  rcases samplePath level s with ⟨hr, rfl⟩ | ⟨hr, rfl, hn⟩ | ⟨hr, rfl, hn⟩ | ⟨hr, ht⟩ | ⟨hr, ht, hb⟩ | ⟨hr, ht, hb⟩
  · rw [sample_idle_high hr]
    exact .of_idle hr h.phase h.index
  · rw [sample_idle_noEdge hr hn]
    exact .of_idle hr h.phase h.index
  · rw [sample_idle_edge hr hn]
    exact (h.startFrame (Bool.and_eq_true_iff.1 hn).1).emit .none
  · rw [sample_wait hr ht]
    exact h.waitTick.emit .none
  · rw [sample_data hr ht hb]
    exact (h.dataInstant level hr hb).emit .none
  · rw [sample_stop hr ht hb]
    exact .of_idle rfl h.phase h.index

theorem inv_step (s t : State) (h : Inv s) (hs : step s = .next t) : Inv t := by
  obtain ⟨v, ws, -, rfl⟩ | ⟨level, ws, -, rfl⟩ := step_cases hs
  · exact ((inv_restart s).emit .none).setInputs ws
  · exact (h.sample level).setInputs ws

theorem inv_reset (ws : List Cmd) : Inv { State.reset with inputs := ws } := .of_idle rfl (.inl rfl) (Nat.zero_le 8)

/-- Settles O39: each path of the step is one lemma about `Inv`. -/
theorem stepKeepsTheReachableConditions : Obligations.StepKeepsTheReachableConditions := inv_step

/-- Settles O40. -/
theorem resetMeetsTheReachableConditions : Obligations.ResetMeetsTheReachableConditions := inv_reset

/-- Settles O30: both sides are the table's numerals. -/
theorem resetStateIsTheTable : Obligations.ResetStateIsTheTable := by
  unfold Obligations.ResetStateIsTheTable
  exact ⟨rfl, rfl, rfl, rfl, rfl, rfl, rfl, rfl⟩

end Sys2Proof.Machine
end

section
/-! SUPPORT. Runs from reset: the words a run consumes, the state after a run that ends in a reset step, and item 6 of
R35 over the levels sampled since then (O41). -/

namespace Sys2Proof.Machine

variable {s t : State}

/-- `run_add` read backwards: a run of `n + m` steps passes through a state after `n`. -/
theorem run_add_cases {n m : Nat} (h : run (n + m) s = .next t) : ∃ u, run n s = .next u ∧ run m u = .next t := by
  induction n generalizing s with
  | zero => exact ⟨s, rfl, by rwa [Nat.zero_add] at h⟩
  | succ n ih =>
    rw [Nat.succ_add] at h
    obtain ⟨v, hv, hr⟩ := run_succ_cases h
    obtain ⟨u, hu, hm⟩ := ih hr
    exact ⟨u, (run_succ hv n).trans hu, hm⟩

theorem step_inputs (h : step s = .next t) : t.inputs = s.inputs.tail := by
  obtain ⟨v, ws, hi, rfl⟩ | ⟨level, ws, hi, rfl⟩ := step_cases h
  · simp [hi]
  · simp [hi]

/-- Each step consumes one word. -/
theorem run_inputs {n : Nat} (h : run n s = .next t) : t.inputs = s.inputs.drop n := by
  induction n generalizing s with
  | zero => cases h; rfl
  | succ n ih =>
    obtain ⟨u, hu, hr⟩ := run_succ_cases h
    rw [ih hr, step_inputs hu, List.drop_tail]

/-- A run over all the words of `a` leaves the words after them. -/
theorem run_inputs_append {a b : List Cmd} (hi : s.inputs = a ++ b) (h : run a.length s = .next t) : t.inputs = b := by
  rw [run_inputs h, hi, List.drop_left]

/-- A run over `a` and one word more is a run over `a` and a step on that word. -/
theorem run_snoc_cases {a b : List Cmd} {w : Cmd} (hi : s.inputs = a ++ w :: b)
    (h : run (a.length + 1) s = .next t) : ∃ u, run a.length s = .next u ∧ u.inputs = w :: b ∧ step u = .next t := by
  obtain ⟨u, hu, h1⟩ := run_add_cases h
  obtain ⟨t', hs, ht⟩ := run_succ_cases h1
  cases ht
  exact ⟨u, hu, run_inputs_append hi hu, hs⟩

/-- R35 item 6: while no logic-1 has been seen since the last reset, the block is Idle, all levels since then were 0,
and `lastLevel` is still the reset value exactly if there was none. -/
def QuietSinceReset (levels : List Bool) (t : State) : Prop :=
  t.seenIdleHigh = false → t.isReceiving = false ∧ (∀ l ∈ levels, l = false) ∧ t.lastLevel = levels.isEmpty

theorem quietSinceReset_setInputs {levels : List Bool} (h : QuietSinceReset levels t) (ws : List Cmd) :
    QuietSinceReset levels (t.setInputs ws) := h

theorem quietSinceReset_reset (ws : List Cmd) : QuietSinceReset [] { State.reset with inputs := ws } :=
  fun _ => ⟨rfl, List.forall_mem_nil _, rfl⟩

theorem quietSinceReset_restart (s : State) : QuietSinceReset [] (restart s) :=
  fun _ => ⟨rfl, List.forall_mem_nil _, rfl⟩

/-- `SAMPLE` never clears `seenIdleHigh`, so a state with none seen comes from such a state, by a logic-0 Idle step. -/
theorem quietSinceReset_sample {levels : List Bool} (h : QuietSinceReset levels s) (level : Bool) :
    QuietSinceReset (levels ++ [level]) (sample level s) := by
  intro hseen
  have hr : s.isReceiving = false := by
    by_contra hr
    obtain ⟨-, -, hsn⟩ := sample_flags_of_receiving level (Bool.eq_true_of_not_eq_false hr)
    exact hr (h (hsn ▸ hseen)).1
  obtain ⟨hrcv, hlast, hsn⟩ := sample_flags_of_idle level hr
  obtain ⟨hs0, rfl⟩ := Bool.or_eq_false_iff.1 (hsn ▸ hseen)
  obtain ⟨-, hall, -⟩ := h hs0
  refine ⟨by simp [hrcv, startEdge, hs0], ?_, by simp [hlast]⟩
  simpa [List.forall_mem_append] using hall

/-- From a reset or a run that ends in one, no level has been sampled since. -/
theorem quietSinceReset_of_run_pre {pre rest : List Cmd} (hp : pre = [] ∨ ∃ v, pre.getLast? = some (packCmd true v))
    (h : run pre.length { State.reset with inputs := pre ++ rest } = .next t) : QuietSinceReset [] t := by
  obtain rfl | ⟨v, hv⟩ := hp
  · cases h
    exact quietSinceReset_reset _
  · obtain ⟨init, rfl⟩ := List.getLast?_eq_some_iff.1 hv
    rw [List.length_append, List.length_singleton] at h
    obtain ⟨u, -, hi, hs⟩ := run_snoc_cases (List.append_assoc init [_] rest) h
    rw [step_reset hi] at hs
    cases hs
    exact quietSinceReset_restart u

/-- Item 6 along a run of `SAMPLE` steps, by induction on the levels, the latest last. -/
theorem quietSinceReset_of_run_samples {levels : List Bool} {rest : List Cmd} (hq : QuietSinceReset [] s)
    (hi : s.inputs = sampleWords levels ++ rest) (h : run levels.length s = .next t) : QuietSinceReset levels t := by
  induction levels using List.reverseRecOn generalizing t rest with
  | nil => cases h; exact hq
  | append_singleton ls l ih =>
    have hi' : s.inputs = sampleWords ls ++ sampleWord l :: rest := by simpa using hi
    rw [List.length_append, List.length_singleton, ← length_sampleWords ls] at h
    obtain ⟨u, hu, hiu, hs⟩ := run_snoc_cases hi' h
    rw [length_sampleWords] at hu
    rw [step_sample hiu] at hs
    cases hs
    exact quietSinceReset_setInputs (quietSinceReset_sample (ih hi' hu) l) rest

/-- Settles O41: items 1 to 5 and 7 are `Inv` along the run, item 6 is `QuietSinceReset` at its end. -/
theorem everyReachableStateMeetsTheInvariants : Obligations.EveryReachableStateMeetsTheInvariants := by
  unfold Obligations.EveryReachableStateMeetsTheInvariants
  constructor
  · intro ws n t h
    have hinv : Inv t := run_keeps inv_step (inv_reset ws) h
    have hhalf := t.halfBitFracAccumulator.isLt
    exact ⟨hinv.phase, by omega, fun hr => ⟨hinv.seen hr, hinv.index, hinv.countdown hr⟩, hinv.unsampled,
      hinv.index, fun h8 hr => hinv.stopCountdown hr h8⟩
  · intro pre rest levels t hp h
    obtain ⟨u, hu, hr⟩ := run_add_cases h
    rw [List.append_assoc] at hu
    exact quietSinceReset_of_run_samples (quietSinceReset_of_run_pre hp hu) (run_inputs_append rfl hu) hr

end Sys2Proof.Machine
end

section
/-! SUPPORT. Each row and step field by field: the accumulator's range (O28), the writers of each field (O32), and the
flags `isReceiving` and `seenIdleHigh` (O33, O34). -/

namespace Sys2Proof.Machine

/-- Settles O28: the accumulator is cleared, kept or advanced, and its advance stays in range. -/
theorem accumulatorStaysBelowBaud : Obligations.AccumulatorStaysBelowBaud := by
  unfold Obligations.AccumulatorStaysBelowBaud
  intro i s t h hs
  obtain h0 | hkeep | hnext := (completes_of_exec h).bitFrac_cases
  · simp [h0]
  · rwa [hkeep]
  · rw [hnext]
    exact oneBitNext_lt_baud hs

/-- Settles O32, row by row: for a field that a row does not name, the field lemmas of its operations say it is as before. -/
theorem eachFieldHasItsWriters : Obligations.EachFieldHasItsWriters := by
  unfold Obligations.EachFieldHasItsWriters
  intro i s t h h0 h1 hreset
  cases completes_of_exec h with
  | reset v => exact absurd rfl (hreset v)
  | sample level =>
    cases level with
    | false => exact absurd rfl h0
    | true => exact absurd rfl h1
  | idleHigh => simp [Instr.isArm, Instr.kind]
  | idleLowNoEdge => simp [Instr.isArm, Instr.kind]
  | idleLowEdge => simp [Instr.isArm, Instr.kind]
  | rxWait => simp [Instr.isArm, Instr.kind]
  | rxData => simp [Instr.isArm, Instr.kind]
  | rxStopOk => simp [Instr.isArm, Instr.kind]
  | rxStopErr => simp [Instr.isArm, Instr.kind]
  | ticksOneBit => simp
  | ticksHalfBit => simp

/-- Settles O33: after a sample step `isReceiving` is the start edge in Idle and "no stop instant" in Receiving. -/
theorem receivingBeginsAtEdgeAndEndsAtStop : Obligations.ReceivingBeginsAtEdgeAndEndsAtStop := by
  unfold Obligations.ReceivingBeginsAtEdgeAndEndsAtStop
  intro s t w ws hi h
  obtain ⟨v, rfl, rfl⟩ | ⟨level, rfl, rfl⟩ := step_cases_of_inputs hi h
  · refine ⟨fun _ => ?_, fun _ => ?_⟩
    · simp [packCmd_true_ne_zero]
    · simpa [← or_assoc] using Or.inl (packCmd_true_number v)
  · refine ⟨fun hr => ?_, fun hr => ?_⟩
    · obtain ⟨hrcv, -, -⟩ := sample_flags_of_idle level hr
      rw [State.setInputs_isReceiving, hrcv, sampleWord_eq_zero_iff]
      simp [startEdge, and_comm]
    · obtain ⟨hrcv, -, -⟩ := sample_flags_of_receiving level hr
      rw [State.setInputs_isReceiving, hrcv, Bool.not_eq_false', atStopInstant_iff]
      simp [hr]

/-- Settles O34: a reset clears the flag, an Idle step takes its disjunction with the level, Receiving leaves it. -/
theorem seenIdleHighIsStickyUntilReset : Obligations.SeenIdleHighIsStickyUntilReset := by
  unfold Obligations.SeenIdleHighIsStickyUntilReset
  intro s t w ws hi h
  obtain ⟨v, rfl, rfl⟩ | ⟨level, rfl, rfl⟩ := step_cases_of_inputs hi h
  · refine ⟨fun h1 => absurd h1 (packCmd_true_ne_one v), fun _ => rfl, fun _ h2 h3 => ?_⟩
    exact absurd (packCmd_true_number v) (not_or.2 ⟨h2, h3⟩)
  · cases hr : s.isReceiving with
    | false =>
      obtain ⟨-, -, hseen⟩ := sample_flags_of_idle level hr
      cases level <;> simp [hseen]
    | true =>
      obtain ⟨-, -, hseen⟩ := sample_flags_of_receiving level hr
      simp [hseen]

end Sys2Proof.Machine
end

section
/-! SUPPORT. Independence: an Idle step does not read the fields of the last frame (O37), and a receiver's tick
reads and writes that receiver alone (R36, O38). -/

namespace Sys2Proof.Machine

variable {s : State}

/-- The state with other values in the three fields that belong to a frame (R24, R25, R26). -/
def State.setFrameFields (x : Countdown) (k : BitIndex) (b : Byte) (s : State) : State :=
  { s with ticksUntilSample := x, bitIndex := k, rxByte := b }

/-- The edge call overwrites the frame's fields and reads none of them (R93). -/
theorem startFrame_setFrameFields (x : Countdown) (k : BitIndex) (b : Byte) (s : State) :
    startFrame (s.setFrameFields x k b) = startFrame s := by
  rw [startFrame_eq, startFrame_eq]
  rfl

/-- An Idle step overwrites the frame's fields or leaves them, and reads none of them. -/
theorem sample_setFrameFields_of_idle (level : Bool) (x : Countdown) (k : BitIndex) (b : Byte)
    (h : s.isReceiving = false) :
    sample level (s.setFrameFields x k b) =
      if (sample level s).isReceiving then sample level s else (sample level s).setFrameFields x k b := by
  obtain ⟨hrcv, -, -⟩ := sample_flags_of_idle level h
  have h' : (s.setFrameFields x k b).isReceiving = false := h
  rw [hrcv]
  cases level with
  | true =>
    rw [sample_idle_high h, sample_idle_high h', if_neg (by simp [startEdge])]
    rfl
  | false =>
    cases hn : s.seenIdleHigh && s.lastLevel with
    | false =>
      rw [sample_idle_noEdge h hn, sample_idle_noEdge h' hn, if_neg (by simp [startEdge, hn])]
      rfl
    | true =>
      rw [sample_idle_edge h hn, sample_idle_edge h' hn, if_pos (by simp [startEdge, hn]), startFrame_setFrameFields]

/-- Settles O37. -/
theorem idleReadsNoFrameField : Obligations.IdleReadsNoFrameField := by
  unfold Obligations.IdleReadsNoFrameField
  intro s level x k b h
  refine ⟨sample level s, exec_sampleInstr level s, ?_⟩
  rw [exec_sampleInstr]
  exact congrArg Host.Outcome.next (sample_setFrameFields_of_idle level x k b h)

/-- A tick of receiver `k` completes exactly where its own step does, and replaces that receiver only. -/
theorem stepInstance_eq_some_iff {k : Nat} {b b' : List State} :
    stepInstance k b = some b' ↔ ∃ s t, b[k]? = some s ∧ step s = .next t ∧ b' = b.set k t := by
  unfold stepInstance
  cases b[k]? with
  | none => simp
  | some s =>
    cases hs : step s with
    | next t => simp [hs, eq_comm]
    | fault r => exact nomatch r
    | refused r => simp [hs]

/-- Settles O38: the receiver is replaced at its own index, by the state its own step gives. -/
theorem instancesDoNotAffectEachOther : Obligations.InstancesDoNotAffectEachOther := by
  unfold Obligations.InstancesDoNotAffectEachOther
  intro k b b' h
  obtain ⟨s, t, hk, hs, rfl⟩ := stepInstance_eq_some_iff.1 h
  refine ⟨List.length_set, fun j hj => List.getElem?_set_ne hj.symm, fun d hd => ?_⟩
  refine ⟨d.set k t, stepInstance_eq_some_iff.2 ⟨s, t, hd.trans hk, hs, rfl⟩, ?_⟩
  rw [List.getElem?_set_self', List.getElem?_set_self', hd]

end Sys2Proof.Machine
end

section
/-! SUPPORT. The decoder of a word: commands and words correspond one to one (R53, R58; O1, O2, O3). -/

namespace Sys2Proof

theorem wellFormed_eq_kind (i : Instr) : i.wellFormed = (i.kind == .command) := by
  unfold Instr.wellFormed Instr.hasInputWord Instr.chosenWithoutState
  cases i.kind <;> rfl

theorem decode_wellFormed (w : Cmd) : (decode w).wellFormed = true := by
  rw [wellFormed_eq_kind, decode_kind, beq_self_eq_true]

@[simp] theorem encode_sampleInstr (level : Bool) : encode (sampleInstr level) = some (sampleWord level) := by
  cases level <;> rfl

theorem encode_decode (w : Cmd) : encode (decode w) = some w := by
  obtain ⟨v, rfl⟩ | ⟨level, rfl⟩ := cmd_cases w
  · rw [decode_packCmd_true, encode]
  · rw [decode_sampleWord, encode_sampleInstr]

/-- Every command is what some word decodes to. -/
theorem exists_decode_eq_of_command {i : Instr} (h : i.kind = .command) : ∃ w, decode w = i := by
  cases i with
  | reset v => exact ⟨packCmd true v, decode_packCmd_true v⟩
  | sample0 => exact ⟨sampleWord false, decode_sampleWord false⟩
  | sample1 => exact ⟨sampleWord true, decode_sampleWord true⟩
  | _ => cases h

theorem wellFormed_iff_exists_decode (i : Instr) : i.wellFormed = true ↔ ∃ w, decode w = i := by
  constructor
  · intro h
    rw [wellFormed_eq_kind, beq_iff_eq] at h
    exact exists_decode_eq_of_command h
  · rintro ⟨w, rfl⟩
    exact decode_wellFormed w

/-- The word written bit by bit is the one the pins `rst = 1`, `rx = v` present (R52). -/
theorem resetBits_eq_packCmd (v : Bool) : 0b10#2 ||| (BitVec.ofBool v).zeroExtend 2 = packCmd true v := by
  cases v <;> rfl

theorem decodeTableWord_of_lt {nbits n : Nat} (h : n < 4) :
    decodeTableWord nbits n = some (decode (BitVec.ofNat 2 n)) := by
  rw [decodeTableWord, decodeNumber, inputWord, if_pos h]
  rfl

theorem decodeTableWord_of_ge {nbits n : Nat} (h : 4 ≤ n) : decodeTableWord nbits n = none := by
  rw [decodeTableWord, decodeNumber, inputWord, if_neg (Nat.not_lt.2 h)]
  rfl

/-- Settles O2: the commands are the decoder's answers, and `encode` undoes `decode`. -/
theorem commandWordsRoundTrip : Obligations.CommandWordsRoundTrip := by
  unfold Obligations.CommandWordsRoundTrip
  refine ⟨fun i hi => ?_, fun w => ⟨encode_decode w, decode_wellFormed w⟩, fun i hi w hw => ?_⟩
  · obtain ⟨w, rfl⟩ := (wellFormed_iff_exists_decode i).1 hi
    rw [encode_decode, Option.map_some]
  · rw [(wellFormed_iff_exists_decode i).2 ⟨w, hw⟩] at hi
    cases hi

/-- Settles O1. -/
theorem inputWordDecodesToOneOfThreeCommands : Obligations.InputWordDecodesToOneOfThreeCommands := by
  unfold Obligations.InputWordDecodesToOneOfThreeCommands
  refine ⟨fun v => ?_, decode_sampleWord false, decode_sampleWord true⟩
  rw [resetBits_eq_packCmd, decode_packCmd_true]

/-- Settles O3: the numbers below 4 are the words of O1, and 4 is too wide. -/
theorem wordsByHandDecode : Obligations.WordsByHandDecode := by
  unfold Obligations.WordsByHandDecode
  refine ⟨?_, ?_, ?_, ?_, decodeTableWord_of_ge (Nat.le_refl 4)⟩
  · exact (decodeTableWord_of_lt (by decide)).trans (congrArg some (decode_sampleWord false))
  · exact (decodeTableWord_of_lt (by decide)).trans (congrArg some (decode_sampleWord true))
  · exact (decodeTableWord_of_lt (by decide)).trans (congrArg some (decode_packCmd_true false))
  · exact (decodeTableWord_of_lt (by decide)).trans (congrArg some (decode_packCmd_true true))

end Sys2Proof
end

section
/-! SUPPORT. The seven arms: each condition of R56 as a proposition, the one arm a level selects (R57), and an arm executed
by its own name (O4, O5, O7). -/

namespace Sys2Proof

@[simp] theorem sampleWord_inj {a b : Bool} : sampleWord a = sampleWord b ↔ a = b := by
  revert a b; decide

/-! #### The word of each arm -/

@[simp] theorem encode_idleHigh : encode .idleHigh = some (sampleWord true) := rfl
@[simp] theorem encode_idleLowNoEdge : encode .idleLowNoEdge = some (sampleWord false) := rfl
@[simp] theorem encode_idleLowEdge : encode .idleLowEdge = some (sampleWord false) := rfl
@[simp] theorem encode_rxWait (v : Bool) : encode (.rxWait v) = some (sampleWord v) := rfl
@[simp] theorem encode_rxData (v : Bool) : encode (.rxData v) = some (sampleWord v) := rfl
@[simp] theorem encode_rxStopOk : encode .rxStopOk = some (sampleWord true) := rfl
@[simp] theorem encode_rxStopErr : encode .rxStopErr = some (sampleWord false) := rfl

namespace Machine

variable {s : State}

/-! #### The condition of each arm -/

@[simp] theorem armGuard_idleHigh_iff : armGuard .idleHigh s = true ↔ s.isReceiving = false := by
  rw [armGuard, Bool.not_eq_true']

@[simp] theorem armGuard_idleLowNoEdge_iff :
    armGuard .idleLowNoEdge s = true ↔ s.isReceiving = false ∧ (s.seenIdleHigh && s.lastLevel) = false := by
  rw [armGuard, Bool.and_eq_true, Bool.not_eq_true', Bool.not_eq_true']

@[simp] theorem armGuard_idleLowEdge_iff :
    armGuard .idleLowEdge s = true ↔ s.isReceiving = false ∧ (s.seenIdleHigh && s.lastLevel) = true := by
  rw [armGuard, Bool.and_assoc, Bool.and_eq_true, Bool.not_eq_true']

@[simp] theorem armGuard_rxWait_iff (v : Bool) :
    armGuard (.rxWait v) s = true ↔ s.isReceiving = true ∧ 0 < s.ticksUntilSample.toNat := by
  rw [armGuard, Bool.and_eq_true, decide_eq_true_iff]

@[simp] theorem armGuard_rxData_iff (v : Bool) :
    armGuard (.rxData v) s = true ↔
      s.isReceiving = true ∧ s.ticksUntilSample.toNat = 0 ∧ s.bitIndex.toNat < 8 := atDataInstant_iff s

@[simp] theorem armGuard_rxStopOk_iff :
    armGuard .rxStopOk s = true ↔
      s.isReceiving = true ∧ s.ticksUntilSample.toNat = 0 ∧ 8 ≤ s.bitIndex.toNat := atStopInstant_iff s

@[simp] theorem armGuard_rxStopErr_iff :
    armGuard .rxStopErr s = true ↔
      s.isReceiving = true ∧ s.ticksUntilSample.toNat = 0 ∧ 8 ≤ s.bitIndex.toNat := atStopInstant_iff s

/-! #### The selected arm -/

/-- The arm selected is an arm, has the level's word, and its condition holds: one case per path of R90. -/
theorem selectArm_spec (level : Bool) (s : State) :
    (selectArm level s).isArm = true ∧ encode (selectArm level s) = some (sampleWord level) ∧
      armGuard (selectArm level s) s = true := by
  rcases samplePath level s with ⟨h, rfl⟩ | ⟨h, rfl, hn⟩ | ⟨h, rfl, hn⟩ | ⟨h, ht⟩ | ⟨h, ht, hb⟩ | ⟨h, ht, hb⟩
  · rw [selectArm_idle_high h]
    exact ⟨rfl, rfl, armGuard_idleHigh_iff.2 h⟩
  · rw [selectArm_idle_noEdge h hn]
    exact ⟨rfl, rfl, armGuard_idleLowNoEdge_iff.2 ⟨h, hn⟩⟩
  · rw [selectArm_idle_edge h hn]
    exact ⟨rfl, rfl, armGuard_idleLowEdge_iff.2 ⟨h, hn⟩⟩
  · rw [selectArm_wait h ht]
    exact ⟨rfl, rfl, (armGuard_rxWait_iff level).2 ⟨h, ht⟩⟩
  · rw [selectArm_data h ht hb]
    exact ⟨rfl, rfl, (armGuard_rxData_iff level).2 ⟨h, ht, hb⟩⟩
  · rw [selectArm_stop h ht hb]
    cases level with
    | false => exact ⟨rfl, rfl, armGuard_rxStopErr_iff.2 ⟨h, ht, hb⟩⟩
    | true => exact ⟨rfl, rfl, armGuard_rxStopOk_iff.2 ⟨h, ht, hb⟩⟩

/-- No other arm has the level's word and a true condition: the word gives the level, the condition the path. -/
theorem eq_selectArm_of_guard {level : Bool} {i : Instr} (harm : i.isArm = true)
    (hw : encode i = some (sampleWord level)) (hg : armGuard i s = true) : i = selectArm level s := by
  cases i with
  | idleHigh =>
    obtain rfl : true = level := by simpa using hw
    exact (selectArm_idle_high (armGuard_idleHigh_iff.1 hg)).symm
  | idleLowNoEdge =>
    obtain rfl : false = level := by simpa using hw
    obtain ⟨h, hn⟩ := armGuard_idleLowNoEdge_iff.1 hg
    exact (selectArm_idle_noEdge h hn).symm
  | idleLowEdge =>
    obtain rfl : false = level := by simpa using hw
    obtain ⟨h, hn⟩ := armGuard_idleLowEdge_iff.1 hg
    exact (selectArm_idle_edge h hn).symm
  | rxWait v =>
    obtain rfl : v = level := by simpa using hw
    obtain ⟨h, ht⟩ := (armGuard_rxWait_iff v).1 hg
    exact (selectArm_wait h ht).symm
  | rxData v =>
    obtain rfl : v = level := by simpa using hw
    obtain ⟨h, ht, hb⟩ := (armGuard_rxData_iff v).1 hg
    exact (selectArm_data h ht hb).symm
  | rxStopOk =>
    obtain rfl : true = level := by simpa using hw
    obtain ⟨h, ht, hb⟩ := armGuard_rxStopOk_iff.1 hg
    exact (selectArm_stop (level := true) h ht hb).symm
  | rxStopErr =>
    obtain rfl : false = level := by simpa using hw
    obtain ⟨h, ht, hb⟩ := armGuard_rxStopErr_iff.1 hg
    exact (selectArm_stop (level := false) h ht hb).symm
  | _ => cases harm

/-! #### An arm executed by its own name -/

theorem whenSelected_of_not_guard {i : Instr} {t : State} (h : armGuard i s = false) :
    whenSelected i s t = .refused .armNotSelected := if_neg (Bool.eq_false_iff.1 h)

/-- An arm has its effect where its condition holds, and no arm touches the words still to come. -/
theorem exec_arm {i : Instr} (h : i.isArm = true) (s : State) :
    ∃ t, exec i s = whenSelected i s t ∧ t.inputs = s.inputs := by
  cases i with
  | idleHigh => exact ⟨_, rfl, rfl⟩
  | idleLowNoEdge => exact ⟨_, rfl, rfl⟩
  | idleLowEdge => exact ⟨_, rfl, startFrame_inputs s⟩
  | rxWait v => exact ⟨_, rfl, waitTick_inputs s⟩
  | rxData v => exact ⟨_, rfl, dataInstant_inputs s v⟩
  | rxStopOk => exact ⟨_, rfl, stopInstant_inputs s true⟩
  | rxStopErr => exact ⟨_, rfl, stopInstant_inputs s false⟩
  | _ => cases h

/-- Settles O5: the selected arm meets the three conditions and is the only one that does. -/
theorem exactlyOneArmIsSelected : Obligations.ExactlyOneArmIsSelected := by
  unfold Obligations.ExactlyOneArmIsSelected
  refine ⟨fun s level i => ?_, fun s level h ht hb => ?_⟩
  · rw [decodeIn_sampleWord]
    constructor
    · rintro ⟨harm, hw, hg⟩
      exact eq_selectArm_of_guard harm hw hg
    · rintro rfl
      exact selectArm_spec level s
  · rw [decodeIn_sampleWord, selectArm_stop h ht (by omega)]

/-- Settles O7. -/
theorem armRunsExactlyWhereSelected : Obligations.ArmRunsExactlyWhereSelected := by
  unfold Obligations.ArmRunsExactlyWhereSelected
  intro i s harm
  obtain ⟨t, hexec, hinputs⟩ := exec_arm harm s
  refine ⟨fun hg => ?_, fun hg => ⟨t, ?_, hinputs⟩⟩
  · rw [hexec, whenSelected_of_not_guard hg]
  · rw [hexec, whenSelected_of_guard hg]

/-- Settles O4: the table's rows are the lemmas on `armGuard`; only the edge test is spelled in two fields there. -/
theorem armConditionsAreTheTable : Obligations.ArmConditionsAreTheTable := by
  unfold Obligations.ArmConditionsAreTheTable
  intro s v
  refine ⟨⟨armGuard_idleHigh_iff, rfl⟩, ⟨?_, rfl⟩, ⟨?_, rfl⟩, ⟨armGuard_rxWait_iff v, rfl⟩,
    ⟨armGuard_rxData_iff v, rfl⟩, ⟨armGuard_rxStopOk_iff, rfl⟩, ⟨armGuard_rxStopErr_iff, rfl⟩, rfl, rfl⟩
  · rw [armGuard_idleLowNoEdge_iff, ← Bool.not_eq_true (_ && _), Bool.and_eq_true]
  · rw [armGuard_idleLowEdge_iff, Bool.and_eq_true]

end Machine
end Sys2Proof
end

section
/-! SUPPORT. The step on a presented word: it completes (O8, O9), and which event it leaves (R54; O35). -/

namespace Sys2Proof.Machine

/-- Only the stop-bit instant makes an event (R54, R90). -/
@[simp] theorem sample_event (level : Bool) (s : State) :
    (sample level s).event = if atStopInstant s then stopEvent level s else .none := by
  simp only [atStopInstant_iff]
  rcases samplePath level s with ⟨h, rfl⟩ | ⟨h, rfl, hn⟩ | ⟨h, rfl, hn⟩ | ⟨h, ht⟩ | ⟨h, ht, hb⟩ | ⟨h, ht, hb⟩
  · simp [sample_idle_high h, h]
  · simp [sample_idle_noEdge h hn, h]
  · simp [sample_idle_edge h hn, h]
  · simp [sample_wait h ht, Nat.ne_of_gt ht]
  · simp [sample_data h ht hb, Nat.not_le.2 hb]
  · simp [sample_stop h ht hb, h, ht, hb]

/-- Settles O8. -/
theorem stepRunsTheDecodedWord : Obligations.StepRunsTheDecodedWord := by
  unfold Obligations.StepRunsTheDecodedWord
  exact ⟨fun s w ws hi => step_cons hi, fun s hi => step_nil hi⟩

/-- Settles O9: the word is a reset word or a sample word, and both steps complete. -/
theorem stepAlwaysCompletesOnAWord : Obligations.StepAlwaysCompletesOnAWord := by
  unfold Obligations.StepAlwaysCompletesOnAWord
  intro s w ws hi
  obtain ⟨v, rfl⟩ | ⟨level, rfl⟩ := cmd_cases w
  · exact ⟨_, step_reset hi, rfl⟩
  · exact ⟨_, step_sample hi, rfl⟩

/-- Settles O35: `sample_event` for a sample word, `None` for a reset word, and the wires event by event. -/
theorem everyStepProducesItsOneEvent : Obligations.EveryStepProducesItsOneEvent := by
  unfold Obligations.EveryStepProducesItsOneEvent
  refine ⟨fun s t w ws hi h => ?_, ⟨rfl, rfl⟩, fun b => ⟨rfl, rfl, rfl⟩, ⟨rfl, rfl⟩, ?_, ?_⟩
  · intro stop
    have hstop : atStopInstant s = true ↔ stop := atStopInstant_iff s
    obtain ⟨v, rfl, rfl⟩ | ⟨level, rfl, rfl⟩ := step_cases_of_inputs hi h
    · exact ⟨fun _ h1 => absurd h1 (packCmd_true_ne_one v), fun _ h0 => absurd h0 (packCmd_true_ne_zero v), fun _ => rfl⟩
    · simp only [State.setInputs_event, sample_event, hstop, sampleWord_eq_zero_iff, sampleWord_eq_one_iff,
        sampleWord_ne_two, sampleWord_ne_three, or_false]
      refine ⟨?_, ?_, fun hn => if_neg hn⟩
      · rintro hs rfl
        exact if_pos hs
      · rintro hs rfl
        exact if_pos hs
  · rintro (_ | b | _) hv
    · rfl
    · cases hv
    · rfl
  · rintro (_ | b | _) ⟨hv, he⟩
    · cases hv
    · cases he
    · cases hv

end Sys2Proof.Machine
end

section
/-! SUPPORT. Stimulus programs: the words and the lengths of IDLE, BIT and FRAME (R60 to R62; O48). -/

namespace Sys2Proof

@[simp] theorem stimulusWords_append (p q : List StimulusItem) :
    stimulusWords (p ++ q) = stimulusWords p ++ stimulusWords q := List.flatMap_append

@[simp] theorem stimulusWords_singleton (x : StimulusItem) :
    stimulusWords [x] = List.replicate x.times x.pulse.word := List.flatMap_singleton _ _

theorem stimulusWords_bitItems (v : Bool) (k : Nat) :
    stimulusWords (bitItems v k) = List.replicate (bitLen k) (sampleWord v) := by
  cases v <;> exact stimulusWords_singleton _

@[simp] theorem length_stimulusWords_bitItems (v : Bool) (k : Nat) : (stimulusWords (bitItems v k)).length = bitLen k := by
  rw [stimulusWords_bitItems, List.length_replicate]

theorem bitLen_eq (k : Nat) : bitLen k = if k % 2 = 0 then 1562 else 1563 := by
  unfold bitLen
  split <;> omega

theorem sum_bitLen_frame : ((List.range 10).map bitLen).sum = 15625 := by decide

/-- The eight data bits of a frame are one `BIT` each, least significant first. -/
theorem frameItems_eq (b : Byte) (stop : Bool) :
    frameItems b stop =
      bitItems false 0 ++ ((List.range 8).map fun k => bitItems (b.getLsbD k) (k + 1)).flatten ++ bitItems stop 9 := rfl

/-- Whatever the byte and the stop level, a frame is as long as its ten bits. -/
theorem length_stimulusWords_frameItems (b : Byte) (stop : Bool) :
    (stimulusWords (frameItems b stop)).length = ((List.range 10).map bitLen).sum := by
  simp only [frameItems, stimulusWords_append, List.length_append, length_stimulusWords_bitItems]
  rfl

/-- Settles O48. -/
theorem stimulusMacrosExpand : Obligations.StimulusMacrosExpand := by
  unfold Obligations.StimulusMacrosExpand
  refine ⟨fun n => stimulusWords_singleton _, fun v k => ?_, bitLen_eq, sum_bitLen_frame, frameItems_eq, fun b stop => ?_⟩
  · rw [stimulusWords_bitItems, bitLen]
    cases v <;> rfl
  · rw [length_stimulusWords_frameItems, sum_bitLen_frame]

end Sys2Proof
end

section
/-! SUPPORT. The generator's two operations, one call each: the count and the accumulator in numerals (R71, R75), the rows
executed by themselves, and the two accumulators apart (R78) (O20, O21, O22, O27). -/

namespace Sys2Proof.Machine

theorem halfBitNext_toNat (h : HalfFrac) : (halfBitNext h).toNat = (h.toNat + 1) % 4 := by
  revert h; decide

theorem halfBitNext_eq_ofNat (h : HalfFrac) : halfBitNext h = BitVec.ofNat 2 (h.toNat + 1) := by
  apply BitVec.eq_of_toNat_eq
  rw [halfBitNext_toNat, BitVec.toNat_ofNat]

theorem halfBitNext_of_wrap {h : HalfFrac} (heq : h.toNat = 3) : halfBitNext h = 0 := by
  apply BitVec.eq_of_toNat_eq
  rw [halfBitNext_toNat, heq]
  rfl

theorem ofNat_spelledOneNext (s : State) : BitVec.ofNat 17 (spelledOneNext s) = oneBitNext s.bitFracAccumulator := by
  rw [spelledOneNext_eq, BitVec.ofNat_toNat, BitVec.setWidth_eq]

theorem ofNat_spelledOneCount (s : State) : BitVec.ofNat 11 (spelledOneCount s) = oneBitCount s.bitFracAccumulator := by
  rw [spelledOneCount_eq, BitVec.ofNat_toNat, BitVec.setWidth_eq]

theorem ofNat_spelledHalfCount (s : State) :
    BitVec.ofNat 11 (spelledHalfCount s) = (halfBitCount s.halfBitFracAccumulator).zeroExtend 11 := by
  rw [spelledHalfCount_eq, BitVec.ofNat_toNat]

/-- Settles O20: with a carry and without, the count and the accumulator are the lemmas on `oneBitCount` and
`oneBitNext`. -/
theorem ticksOneBitAddsAndCarries : Obligations.TicksOneBitAddsAndCarries := by
  unfold Obligations.TicksOneBitAddsAndCarries
  intro s
  rw [ticksOneBit_count, ticksOneBit_state, State.setBitFrac_bitFracAccumulator]
  refine ⟨fun h => ⟨?_, ?_⟩, fun h => ⟨?_, ?_⟩, oneBitNext_lt_baud, fun h => ⟨?_, ?_⟩⟩
  · rw [oneBitCount_of_carry h]; rfl
  · rw [oneBitNext_of_carry h]; rfl
  · rw [oneBitCount_of_noCarry h]; rfl
  · rw [oneBitNext_of_noCarry h]; rfl
  · rw [h]; exact congrArg BitVec.toNat oneBitCount_phase
  · rw [h]; exact oneBitNext_phase

/-- Settles O21. -/
theorem ticksHalfBitAdvancesAndWraps : Obligations.TicksHalfBitAdvancesAndWraps := by
  unfold Obligations.TicksHalfBitAdvancesAndWraps
  intro s
  rw [ticksHalfBit_count, ticksHalfBit_state, halfBitCount_toNat]
  refine ⟨fun h => ⟨if_pos (by omega), ?_⟩, fun h => ⟨if_neg (by omega), ?_⟩⟩
  · rw [halfBitNext_of_wrap h]; rfl
  · rw [halfBitNext_eq_ofNat]; rfl

/-- Settles O22: the numerals fit their registers, so each row leaves what its operation does. -/
theorem generatorRowsComplete : Obligations.GeneratorRowsComplete := by
  unfold Obligations.GeneratorRowsComplete
  intro s
  constructor
  · rw [exec_ticksOneBit, ofNat_spelledOneNext, ofNat_spelledOneCount]; rfl
  · rw [exec_ticksHalfBit, ofNat_spelledHalfCount, halfBitNext_eq]; rfl

/-- Settles O27: each operation's count and write are functions of its own accumulator, which the other leaves. -/
theorem generatorOrderDoesNotMatter : Obligations.GeneratorOrderDoesNotMatter := by
  unfold Obligations.GeneratorOrderDoesNotMatter
  intro s
  refine ⟨?_, ?_, ?_⟩
  · rw [ticksHalfBit_count, ticksHalfBit_count, ticksOneBit_state, State.setBitFrac_halfBitFracAccumulator]
  · rw [ticksOneBit_count, ticksOneBit_count, ticksHalfBit_state, State.setHalfFrac_bitFracAccumulator]
  · simp only [ticksOneBit_state, ticksHalfBit_state, State.setHalfFrac_bitFracAccumulator,
      State.setBitFrac_halfBitFracAccumulator]
    rfl

end Sys2Proof.Machine
end

section
/-! SUPPORT. Repeated calls of a generator row: the counts are those of the iterated accumulator (R72, R76), and every call
keeps the balance of ticks paid out and fraction owed that makes the sums exact (R73, R77) (O23, O24, O25, O26). -/

namespace Sys2Proof.Machine

theorem generate_succ {i : Instr} {s t : State} (h : exec i s = .next t) (n : Nat) :
    generate i (n + 1) s = (generate i n t).map fun p => (answeredCount t :: p.1, p.2) := by
  simp only [generate, h]

/-- The counts that `n` calls return, the first from accumulator `a`. -/
def callCounts {α : Type} {w : Nat} (count : α → BitVec w) (next : α → α) (a : α) (n : Nat) : List Nat :=
  (List.range n).map fun j => (count (next^[j] a)).toNat

section
variable {α : Type} {w : Nat} (count : α → BitVec w) (next : α → α) (a : α) (n : Nat)

@[simp] theorem length_callCounts : (callCounts count next a n).length = n := by
  rw [callCounts, List.length_map, List.length_range]

theorem callCounts_succ : callCounts count next a (n + 1) = (count a).toNat :: callCounts count next (next a) n := by
  rw [callCounts, callCounts, List.range_succ_eq_map, List.map_cons, List.map_map]
  rfl

end

/-- A row that answers a function of one accumulator and steps that accumulator: `n` calls iterate the step. -/
theorem generate_eq_callCounts {α : Type} {w : Nat} {i : Instr} {acc : State → α} {count : α → BitVec w} {next : α → α}
    (hexec : ∀ s, ∃ t, exec i s = .next t ∧ answeredCount t = (count (acc s)).toNat ∧ acc t = next (acc s))
    (n : Nat) (s : State) :
    ∃ t, generate i n s = some (callCounts count next (acc s) n, t) ∧ acc t = next^[n] (acc s) := by
  induction n generalizing s with
  | zero => exact ⟨s, rfl, rfl⟩
  | succ n ih =>
    obtain ⟨u, hu, hcount, hnext⟩ := hexec s
    obtain ⟨t, ht, hacc⟩ := ih u
    rw [hnext] at ht hacc
    refine ⟨t, ?_, hacc⟩
    rw [generate_succ hu, ht, Option.map_some, hcount, callCounts_succ]

theorem generate_ticksOneBit (n : Nat) (s : State) :
    ∃ t, generate .ticksOneBit n s =
        some (callCounts oneBitCount oneBitNext s.bitFracAccumulator n, t) ∧
      t.bitFracAccumulator = oneBitNext^[n] s.bitFracAccumulator :=
  generate_eq_callCounts (acc := State.bitFracAccumulator) (count := oneBitCount)
    (fun s => ⟨_, exec_ticksOneBit s, rfl, rfl⟩) n s

/-- The 10-bit count is widened when it is answered, and keeps its value. -/
theorem answeredCount_answerCount_zeroExtend (c : HalfCount) (s : State) :
    answeredCount (s.answerCount (c.zeroExtend 11)) = c.toNat := by
  rw [answeredCount, State.answerCount_genCount]
  exact BitVec.toNat_setWidth_of_le (by decide)

theorem generate_ticksHalfBit (n : Nat) (s : State) :
    ∃ t, generate .ticksHalfBit n s =
        some (callCounts halfBitCount halfBitNext s.halfBitFracAccumulator n, t) ∧
      t.halfBitFracAccumulator = halfBitNext^[n] s.halfBitFracAccumulator :=
  generate_eq_callCounts (acc := State.halfBitFracAccumulator) (count := halfBitCount)
    (fun s => ⟨_, exec_ticksHalfBit s, answeredCount_answerCount_zeroExtend _ _, rfl⟩) n s

/-! #### The one-bit generator -/

/-- One call pays `B` for each tick of its count, out of `R` and what it was owed: the accumulator is the change. -/
theorem oneBit_balance (a : BitFrac) :
    115200 * (oneBitCount a).toNat + (oneBitNext a).toNat = 180000000 + a.toNat := by
  rw [oneBitCount_toNat, oneBitNext_toNat]
  split <;> omega

/-- The balance over `n` calls: the accumulators between them cancel. -/
theorem sum_oneBitCounts_balance (a : BitFrac) (n : Nat) :
    115200 * (callCounts oneBitCount oneBitNext a n).sum + (oneBitNext^[n] a).toNat =
      180000000 * n + a.toNat := by
  induction n generalizing a with
  | zero => simp [callCounts]
  | succ n ih =>
    have hfirst := oneBit_balance a
    have hrest := ih (oneBitNext a)
    rw [callCounts_succ, List.sum_cons, Function.iterate_succ_apply]
    omega

theorem iterate_oneBitNext_lt_baud {a : BitFrac} (h : a.toNat < 115200) (n : Nat) :
    (oneBitNext^[n] a).toNat < 115200 := by
  induction n with
  | zero => exact h
  | succ n ih =>
    rw [Function.iterate_succ_apply']
    exact oneBitNext_lt_baud ih

/-- Where `n` bit periods are a whole number `c` of ticks, `n` calls from a legal accumulator return `c` in all and leave
the accumulator as it was: both accumulators are the remainder by `B` of the same balance. -/
theorem oneBitCounts_of_whole {n c : Nat} (hc : 180000000 * n = 115200 * c) {a : BitFrac} (ha : a.toNat < 115200) :
    (callCounts oneBitCount oneBitNext a n).sum = c ∧ oneBitNext^[n] a = a := by
  have hbal := sum_oneBitCounts_balance a n
  have hlt := iterate_oneBitNext_lt_baud ha n
  rw [hc] at hbal
  clear hc -- `omega` need not solve for `n`: that is too costly with these coefficients
  have hsame : (oneBitNext^[n] a).toNat = a.toNat := by omega
  exact ⟨by omega, BitVec.eq_of_toNat_eq hsame⟩

theorem generate_ticksOneBit_of_whole {n c : Nat} (hc : 180000000 * n = 115200 * c) {s : State}
    (hs : s.bitFracAccumulator.toNat < 115200) :
    ∃ l t, generate .ticksOneBit n s = some (l, t) ∧ l.length = n ∧ l.sum = c ∧
      t.bitFracAccumulator = s.bitFracAccumulator := by
  obtain ⟨t, hgen, hacc⟩ := generate_ticksOneBit n s
  obtain ⟨hsum, hsame⟩ := oneBitCounts_of_whole hc hs
  exact ⟨_, t, hgen, length_callCounts _ _ _ _, hsum, hacc.trans hsame⟩

/-- Settles O24: `B` bit periods are `R` ticks, and two are 3125. -/
theorem oneBitCountsSumToTheSampleRate : Obligations.OneBitCountsSumToTheSampleRate := by
  unfold Obligations.OneBitCountsSumToTheSampleRate
  refine ⟨fun s hs => generate_ticksOneBit_of_whole (by decide) hs, fun s hs => ?_⟩
  have hlegal : s.bitFracAccumulator.toNat < 115200 := by
    obtain h | h := hs <;> rw [h] <;> decide
  obtain ⟨l, t, hgen, -, hsum, -⟩ := generate_ticksOneBit_of_whole (n := 2) (c := 3125) (by decide) hlegal
  exact ⟨l, t, hgen, hsum⟩

/-- From the reset value the two phases of R35 item 1 alternate. -/
theorem iterate_oneBitNext_zero (n : Nat) : oneBitNext^[n] 0 = if n % 2 = 0 then 0 else 57600 := by
  induction n with
  | zero => rfl
  | succ n ih =>
    rw [Function.iterate_succ_apply', ih]
    by_cases h : n % 2 = 0
    · rw [if_pos h, if_neg (by omega)]; exact oneBitNext_zero
    · rw [if_neg h, if_pos (by omega)]; exact oneBitNext_phase

theorem oneBitCounts_zero (n : Nat) :
    callCounts oneBitCount oneBitNext 0 n = (List.range n).map fun j => if j % 2 = 0 then 1562 else 1563 := by
  refine List.map_congr_left fun j _ => ?_
  rw [iterate_oneBitNext_zero]
  split
  · exact congrArg BitVec.toNat oneBitCount_zero
  · exact congrArg BitVec.toNat oneBitCount_phase

/-- Settles O23: the counts of the two alternating phases. -/
theorem oneBitCountsAlternate : Obligations.OneBitCountsAlternate := by
  unfold Obligations.OneBitCountsAlternate
  intro s n h0
  obtain ⟨t, hgen, hacc⟩ := generate_ticksOneBit n s
  rw [h0] at hgen hacc
  exact ⟨t, by rw [hgen, oneBitCounts_zero], hacc.trans (iterate_oneBitNext_zero n)⟩

/-! #### The half-bit generator -/

/-- The counter counts the calls modulo 4. -/
theorem iterate_halfBitNext_toNat (h : HalfFrac) (n : Nat) : (halfBitNext^[n] h).toNat = (h.toNat + n) % 4 := by
  induction n with
  | zero => exact (Nat.mod_eq_of_lt h.isLt).symm
  | succ n ih =>
    rw [Function.iterate_succ_apply', halfBitNext_toNat, ih]
    omega

/-- Call `j` from counter `h` has the extra tick exactly where the counter comes round to 0. -/
theorem halfBitCounts_eq (h : HalfFrac) (n : Nat) :
    callCounts halfBitCount halfBitNext h n =
      (List.range n).map fun j => if (h.toNat + j + 1) % 4 = 0 then 782 else 781 := by
  simp only [callCounts, halfBitCount_toNat, iterate_halfBitNext_toNat, Nat.mod_add_mod]

/-- Settles O25. -/
theorem halfBitCountsFollowTheCounter : Obligations.HalfBitCountsFollowTheCounter := by
  unfold Obligations.HalfBitCountsFollowTheCounter
  intro s n h0
  obtain ⟨t, hgen, hacc⟩ := generate_ticksHalfBit n s
  have hzero : s.halfBitFracAccumulator.toNat = 0 := by rw [h0]; rfl
  refine ⟨t, ?_, ?_⟩
  · simp only [hgen, halfBitCounts_eq, hzero, Nat.zero_add]
  · rw [hacc, iterate_halfBitNext_toNat, hzero, Nat.zero_add]

/-- Four calls go once round the counter, from each of its four values. -/
theorem four_halfBitCounts (h : HalfFrac) :
    (callCounts halfBitCount halfBitNext h 4).count 782 = 1 ∧ (callCounts halfBitCount halfBitNext h 4).count 781 = 3 ∧
      (callCounts halfBitCount halfBitNext h 4).sum = 3125 := by
  revert h; decide

/-- Settles O26. -/
theorem fourHalfBitCountsSumTo3125 : Obligations.FourHalfBitCountsSumTo3125 := by
  unfold Obligations.FourHalfBitCountsSumTo3125
  intro s
  obtain ⟨t, hgen, -⟩ := generate_ticksHalfBit 4 s
  exact ⟨_, t, hgen, length_callCounts _ _ _ _, four_halfBitCounts s.halfBitFracAccumulator⟩

end Sys2Proof.Machine
end

section
/-! SUPPORT. Where a step runs the generator: at the edge call both operations, at a data instant the one-bit operation,
elsewhere neither (R79; O29). -/

namespace Sys2Proof.Machine

/-- `SAMPLE` advances the one-bit accumulator exactly at the edge call and at a data instant. -/
theorem sample_bitFracAccumulator (level : Bool) (s : State) :
    (sample level s).bitFracAccumulator =
      if (level = false ∧ armGuard .idleLowEdge s = true) ∨ atDataInstant s = true then
        oneBitNext s.bitFracAccumulator
      else s.bitFracAccumulator := by
  simp only [armGuard_idleLowEdge_iff, atDataInstant_iff]
  rcases samplePath level s with ⟨h, rfl⟩ | ⟨h, rfl, hn⟩ | ⟨h, rfl, hn⟩ | ⟨h, ht⟩ | ⟨h, ht, hb⟩ | ⟨h, ht, hb⟩
  · simp [sample_idle_high h, h]
  · simp [sample_idle_noEdge h hn, h, hn]
  · simp [sample_idle_edge h hn, h, hn]
  · simp [sample_wait h ht, h, Nat.ne_of_gt ht]
  · simp [sample_data h ht hb, h, ht, hb]
  · simp [sample_stop h ht hb, h, Nat.not_lt.2 hb]

/-- `SAMPLE` advances the half-bit counter exactly at the edge call. -/
theorem sample_halfBitFracAccumulator (level : Bool) (s : State) :
    (sample level s).halfBitFracAccumulator =
      if level = false ∧ armGuard .idleLowEdge s = true then halfBitNext s.halfBitFracAccumulator
      else s.halfBitFracAccumulator := by
  simp only [armGuard_idleLowEdge_iff]
  rcases samplePath level s with ⟨h, rfl⟩ | ⟨h, rfl, hn⟩ | ⟨h, rfl, hn⟩ | ⟨h, ht⟩ | ⟨h, ht, hb⟩ | ⟨h, ht, hb⟩
  · simp [sample_idle_high h]
  · simp [sample_idle_noEdge h hn, hn]
  · simp [sample_idle_edge h hn, h, hn]
  · simp [sample_wait h ht, h]
  · simp [sample_data h ht hb, h]
  · simp [sample_stop h ht hb, h]

/-- Settles O29: a reset word clears both accumulators; for a sample word the statement's edge call and data instant are
the conditions under which `SAMPLE` advances them. -/
theorem generatorRunsOnlyAtEdgeAndDataInstants : Obligations.GeneratorRunsOnlyAtEdgeAndDataInstants := by
  unfold Obligations.GeneratorRunsOnlyAtEdgeAndDataInstants
  intro s t w ws hi h edge data rst
  obtain ⟨v, rfl, rfl⟩ | ⟨level, rfl, rfl⟩ := step_cases_of_inputs hi h
  · have hrst : rst := packCmd_true_number v
    have hedge : ¬edge := fun he => packCmd_true_ne_zero v he.1
    have hdata : ¬data := fun hd => hd.1.elim (packCmd_true_ne_zero v) (packCmd_true_ne_one v)
    exact ⟨fun _ => ⟨rfl, rfl⟩, fun hed => absurd hed (not_or.2 ⟨hedge, hdata⟩), fun he => absurd he hedge,
      fun hn => absurd hrst hn, fun hn => absurd hrst hn⟩
  · have hrst : ¬rst := not_or.2 ⟨sampleWord_ne_two level, sampleWord_ne_three level⟩
    have hedge : (level = false ∧ armGuard .idleLowEdge s = true) ↔ edge := by
      rw [armGuard_idleLowEdge_iff, Bool.and_eq_true, ← sampleWord_eq_zero_iff]
    have hdata : atDataInstant s = true ↔ data := by
      have hword : sampleWord level = 0#2 ∨ sampleWord level = 1#2 := by simp
      rw [atDataInstant_iff]
      exact (and_iff_right hword).symm
    simp only [State.setInputs_bitFracAccumulator, State.setInputs_halfBitFracAccumulator, sample_bitFracAccumulator,
      sample_halfBitFracAccumulator, hedge, hdata]
    refine ⟨fun hr => absurd hr hrst, fun hed => ?_, fun he => ?_, fun _ he hd => ?_, fun _ he => if_neg he⟩
    · rw [if_pos hed, spelledOneNext_eq]
    · rw [if_pos he, halfBitNext_eq]
    · exact if_neg (not_or.2 ⟨he, hd⟩)

end Sys2Proof.Machine
end

section
/-! SUPPORT. Quiet runs: runs that emit nothing. Composing them, an instant followed by its wait, and Idle runs without
a start edge (O13, O44, O45, O47). -/

namespace Sys2Proof.Machine

variable {s t u : State}

/-- `n` steps lead from `s` to `t`, and none of them has an event. -/
structure QuietRun (n : Nat) (s t : State) : Prop where
  reaches : run n s = .next t
  events : eventTrace n s = List.replicate n .none

theorem QuietRun.refl (s : State) : QuietRun 0 s s := ⟨rfl, rfl⟩

theorem QuietRun.trans {n m : Nat} (h : QuietRun n s t) (h' : QuietRun m t u) : QuietRun (n + m) s u where
  reaches := (run_add h.reaches m).trans h'.reaches
  events := by rw [eventTrace_add h.reaches, h.events, h'.events, List.replicate_append_replicate]

theorem quietRun_step (h : step s = .next t) (he : t.event = .none) : QuietRun 1 s t where
  reaches := run_succ h 0
  events := by rw [eventTrace_succ h, he]; rfl

theorem quietRun_wait {levels : List Bool} {rest : List Cmd} (hr : s.isReceiving = true)
    (hn : levels.length ≤ s.ticksUntilSample.toNat) (hi : s.inputs = sampleWords levels ++ rest) :
    QuietRun levels.length s (afterWait levels.length rest s) := by
  obtain ⟨hrun, htrace⟩ := run_wait hr hn hi
  exact ⟨hrun, htrace⟩

/-- A `SAMPLE` step that schedules an instant, and the wait for it: the block stands at the instant, `T + 1` ticks later
(R94, R100). -/
theorem exists_quietRun_to_next_instant {levels : List Bool} {rest : List Cmd} {l : Bool}
    (hi : s.inputs = sampleWords levels ++ rest) (hl : levels.head? = some l)
    (hr : (sample l s).isReceiving = true) (he : (sample l s).event = .none)
    (hn : (sample l s).ticksUntilSample.toNat < levels.length) :
    ∃ ws, QuietRun ((sample l s).ticksUntilSample.toNat + 1) s
      (afterWait (sample l s).ticksUntilSample.toNat ws (sample l s)) := by
  obtain ⟨ls, rfl⟩ := List.head?_eq_some_iff.1 hl
  generalize hT : (sample l s).ticksUntilSample.toNat = T at hn ⊢
  have hlen : (ls.take T).length = T := List.length_take_of_le (Nat.le_of_lt_succ hn)
  have hfirst : QuietRun 1 s
      ((sample l s).setInputs (sampleWords (ls.take T) ++ (sampleWords (ls.drop T) ++ rest))) := by
    refine quietRun_step (step_sample ?_) he
    rw [hi, sampleWords_cons, List.cons_append, ← List.append_assoc, ← sampleWords_append, List.take_append_drop]
  have hwait := quietRun_wait (levels := ls.take T) (rest := sampleWords (ls.drop T) ++ rest)
    (s := (sample l s).setInputs (sampleWords (ls.take T) ++ (sampleWords (ls.drop T) ++ rest))) hr
    (by simp [hT]) rfl
  rw [hlen] at hwait
  rw [Nat.add_comm]
  exact ⟨_, hfirst.trans hwait⟩

/-! #### Idle runs -/

/-- `hasFall` says that the levels are not in ascending order. -/
theorem hasFall_eq_false_iff (levels : List Bool) : hasFall levels = false ↔ levels.Pairwise (· ≤ ·) := by
  rw [← List.isChain_iff_pairwise]
  induction levels with
  | nil => simp [hasFall]
  | cons a ls ih =>
    cases ls with
    | nil => simp [hasFall]
    | cons b ls =>
      have hab : (a && !b) = false ↔ a ≤ b := by cases a <;> cases b <;> decide
      rw [hasFall, Bool.or_eq_false_iff, ih, hab, List.isChain_cons_cons]

/-- What Idle steps without a start edge leave, the words after them being `rest` (R91, R92). -/
def afterIdle (levels : List Bool) (rest : List Cmd) (s : State) : State :=
  { s with
    lastLevel := levels.getLastD s.lastLevel
    seenIdleHigh := s.seenIdleHigh || levels.any id
    event := if levels.isEmpty then s.event else .none
    genCount := if levels.isEmpty then s.genCount else none
    inputs := rest }

section
variable (levels : List Bool) (rest : List Cmd) (s : State)

@[simp] theorem afterIdle_bitFracAccumulator :
    (afterIdle levels rest s).bitFracAccumulator = s.bitFracAccumulator := rfl
@[simp] theorem afterIdle_halfBitFracAccumulator :
    (afterIdle levels rest s).halfBitFracAccumulator = s.halfBitFracAccumulator := rfl
@[simp] theorem afterIdle_isReceiving : (afterIdle levels rest s).isReceiving = s.isReceiving := rfl
@[simp] theorem afterIdle_lastLevel : (afterIdle levels rest s).lastLevel = levels.getLastD s.lastLevel := rfl
@[simp] theorem afterIdle_seenIdleHigh :
    (afterIdle levels rest s).seenIdleHigh = (s.seenIdleHigh || levels.any id) := rfl
@[simp] theorem afterIdle_inputs : (afterIdle levels rest s).inputs = rest := rfl

end

theorem afterIdle_nil (s : State) : afterIdle [] s.inputs s = s := by
  simp [afterIdle]

/-- An Idle step that is no start edge changes only what the level says of the two flags. -/
theorem sample_idle_quiet {level : Bool} (h : s.isReceiving = false)
    (hn : ((s.seenIdleHigh && s.lastLevel) && !level) = false) (ws : List Cmd) :
    (sample level s).setInputs ws = afterIdle [level] ws s := by
  cases level with
  | true =>
    rw [sample_idle_high h, afterIdle, List.any_cons, id, Bool.true_or, Bool.or_true]
    rfl
  | false =>
    rw [sample_idle_noEdge h (by simpa using hn), afterIdle, List.any_cons, List.any_nil, id, Bool.or_self,
      Bool.or_false]
    rfl

theorem afterIdle_cons (l : Bool) (ls : List Bool) (rest ws : List Cmd) (s : State) :
    afterIdle ls rest (afterIdle [l] ws s) = afterIdle (l :: ls) rest s := by
  cases ls <;> simp [afterIdle, Bool.or_assoc, List.getLast?_cons]

/-- As long as no level 0 follows a level 1, an Idle block stays Idle and emits nothing. A level 1 before the first step
counts only if it has been seen in Idle. -/
theorem quietRun_idle {levels : List Bool} {rest : List Cmd} (h : s.isReceiving = false)
    (hn : hasFall ((s.seenIdleHigh && s.lastLevel) :: levels) = false) (hi : s.inputs = sampleWords levels ++ rest) :
    QuietRun levels.length s (afterIdle levels rest s) := by
  induction levels generalizing s with
  | nil =>
    obtain rfl : s.inputs = rest := hi
    rw [afterIdle_nil]
    exact .refl s
  | cons l ls ih =>
    obtain ⟨hl, hls⟩ := Bool.or_eq_false_iff.1 hn
    have hstep := step_sample (ws := sampleWords ls ++ rest) hi
    rw [sample_idle_quiet h hl] at hstep
    have hflags : ((afterIdle [l] (sampleWords ls ++ rest) s).seenIdleHigh &&
        (afterIdle [l] (sampleWords ls ++ rest) s).lastLevel) = l := by
      simp [afterIdle, Bool.and_or_distrib_right]
    have hrest := ih (s := afterIdle [l] (sampleWords ls ++ rest) s) h (by rw [hflags]; exact hls) rfl
    rw [afterIdle_cons] at hrest
    rw [List.length_cons, Nat.add_comm]
    exact (quietRun_step hstep rfl).trans hrest

/-- What logic-1 ticks in Idle leave: the first sets both flags, the others change nothing more (R91). -/
theorem afterIdle_replicate_true (n : Nat) (rest : List Cmd) (s : State) :
    afterIdle (List.replicate (n + 1) true) rest s =
      { s with seenIdleHigh := true, lastLevel := true, event := .none, genCount := none, inputs := rest } := by
  simp [afterIdle, List.getLast?_replicate]

/-- Logic-1 ticks in Idle are no fall. -/
theorem quietRun_high {n : Nat} {rest : List Cmd} (h : s.isReceiving = false)
    (hi : s.inputs = sampleWords (List.replicate (n + 1) true) ++ rest) :
    QuietRun (n + 1) s
      { s with seenIdleHigh := true, lastLevel := true, event := .none, genCount := none, inputs := rest } := by
  have hrun := quietRun_idle h (by simp [hasFall_eq_false_iff, List.pairwise_replicate]) hi
  rwa [List.length_replicate, afterIdle_replicate_true] at hrun

/-- Settles O13. -/
theorem repeatedIdleHighChangesNothingMore : Obligations.RepeatedIdleHighChangesNothingMore := by
  unfold Obligations.RepeatedIdleHighChangesNothingMore
  intro s n rest h hi
  have hrun := quietRun_high (n := n) (rest := rest) h (by rw [hi, sampleWords, List.map_replicate]; rfl)
  exact ⟨hrun.reaches, hrun.events⟩

/-- Settles O47: after reset no logic-1 has been seen, so a low line is no fall. -/
theorem lowLineAfterResetStartsNoFrame : Obligations.LowLineAfterResetStartsNoFrame := by
  unfold Obligations.LowLineAfterResetStartsNoFrame
  intro n rest s
  have hi : s.inputs = sampleWords (List.replicate n false) ++ rest := by
    rw [sampleWords, List.map_replicate]
    rfl
  have hfall : hasFall ((s.seenIdleHigh && s.lastLevel) :: List.replicate n false) = false := by
    rw [hasFall_eq_false_iff]
    simp [s, State.reset, List.pairwise_replicate]
  have hrun := quietRun_idle rfl hfall hi
  rw [List.length_replicate] at hrun
  exact ⟨⟨_, hrun.reaches, rfl, by simp [s, State.reset], rfl⟩, hrun.events⟩

/-- The whole wait, whatever its levels: the block stands at the instant, the instant's word the next (R96, R103). -/
theorem quietRun_whole_wait {levels : List Bool} (level : Bool) (rest : List Cmd) (h : s.isReceiving = true)
    (hlen : levels.length = s.ticksUntilSample.toNat) :
    QuietRun s.ticksUntilSample.toNat (s.setInputs (sampleWords (levels ++ [level]) ++ rest))
      (afterWait s.ticksUntilSample.toNat (sampleWord level :: rest) s) := by
  rw [← hlen]
  exact quietRun_wait (rest := sampleWord level :: rest) h hlen.le (by simp)

/-- Settles O44: the wait leaves the same block for both sequences, and the step at the instant is the same. -/
theorem levelsBetweenInstantsHaveNoEffect : Obligations.LevelsBetweenInstantsHaveNoEffect := by
  unfold Obligations.LevelsBetweenInstantsHaveNoEffect
  intro s before before' level rest h hlen hlen' a b n
  have ha : QuietRun _ a _ := quietRun_whole_wait level rest h hlen
  have hb : QuietRun _ b _ := quietRun_whole_wait level rest h hlen'
  have hstep := step_sample (s := afterWait s.ticksUntilSample.toNat (sampleWord level :: rest) s) rfl
  have hlast := run_succ hstep 0
  refine ⟨⟨_, (run_add ha.reaches 1).trans hlast, (run_add hb.reaches 1).trans hlast, rfl⟩, ?_⟩
  rw [eventTrace_add ha.reaches, eventTrace_add hb.reaches, ha.events, hb.events]

/-- Settles O45: the stop instant leaves the flags of Receiving, and from there a level 0 is a fall exactly after a
level 1. -/
theorem nextEdgeAfterAStopInstant : Obligations.NextEdgeAfterAStopInstant := by
  unfold Obligations.NextEdgeAfterAStopInstant
  constructor
  · intro s level hinv h ht hb
    obtain ⟨hrcv, hlast, hseen⟩ := sample_flags_of_receiving level h
    have hstop : atStopInstant s = true := (atStopInstant_iff s).2 ⟨h, ht, hb⟩
    exact ⟨_, exec_sampleInstr level s, by rw [hrcv, hstop]; rfl, hlast.trans (hinv.edgeLevel h),
      hseen.trans (hinv.seen h)⟩
  · intro s levels rest h hlast hseen hfall
    have hfall' : hasFall ((s.seenIdleHigh && s.lastLevel) :: levels) = false := by
      rw [hlast, Bool.and_false]
      simpa [hasFall_eq_false_iff] using hfall
    refine ⟨fun hi => ?_, fun hi => ?_⟩
    · have hrun := quietRun_idle h hfall' hi
      exact ⟨⟨_, hrun.reaches, h⟩, hrun.events⟩
    · have hrun := quietRun_idle (rest := sampleWord false :: rest) h hfall' (by simpa using hi)
      have hstep := step_sample (s := afterIdle levels (sampleWord false :: rest) s) rfl
      obtain ⟨hrcv, -, -⟩ := sample_flags_of_idle (s := afterIdle levels (sampleWord false :: rest) s) false h
      refine ⟨_, (run_add hrun.reaches 1).trans (run_succ hstep 0), ?_⟩
      rw [State.setInputs_isReceiving, hrcv]
      have hfalls : levels.getLastD false = true ↔ levels.getLast? = some true := by
        rw [List.getLastD_eq_getLast?]
        cases levels.getLast? <;> simp
      simpa [startEdge, hlast, hseen] using hfalls

end Sys2Proof.Machine
end

section
/-! SUPPORT. A frame from its edge call to its stop instant: the byte the nine instants give (R42), the block at each
instant (R94, R97, R100), and the frame law (O42). -/

namespace Sys2Proof.Machine

/-! #### The byte of eight levels (R42) -/

/-- The sum of R42, cut off after `n` bits, is below `2 ^ n` and has the levels as its bits. -/
theorem sum_levels_testBit (v : Nat → Bool) (n : Nat) :
    ((List.range n).map fun k => (v k).toNat * 2 ^ k).sum < 2 ^ n ∧
      ∀ j, ((List.range n).map fun k => (v k).toNat * 2 ^ k).sum.testBit j = (decide (j < n) && v j) := by
  induction n with
  | zero => simp
  | succ n ih =>
    obtain ⟨hlt, hbits⟩ := ih
    simp only [List.range_succ, List.map_append, List.sum_append, List.map_singleton, List.sum_singleton]
    constructor
    · have htop : (v n).toNat * 2 ^ n ≤ 2 ^ n := by cases v n <;> simp
      omega
    · intro j
      rw [Nat.add_comm, Nat.mul_comm, Nat.testBit_two_pow_mul_add _ hlt, hbits, Nat.testBit_bool_toNat]
      rcases Nat.lt_trichotomy j n with hj | rfl | hj
      · simp [hj, Nat.lt_succ_of_lt hj]
      · simp
      · simp [Nat.not_lt.2 (Nat.le_of_lt hj), Nat.not_le.2 hj, Nat.sub_ne_zero_of_lt hj]

theorem byteOfLevels_getLsbD (v : Nat → Bool) {k : Nat} (hk : k < 8) : (byteOfLevels v).getLsbD k = v k := by
  rw [byteOfLevels, BitVec.getLsbD_ofNat, (sum_levels_testBit v 8).2 k]
  simp [hk]

theorem eq_byteOfLevels {b : Byte} {v : Nat → Bool} (h : ∀ k < 8, b.getLsbD k = v k) : b = byteOfLevels v :=
  BitVec.eq_of_getLsbD_eq fun k hk => by rw [h k hk, byteOfLevels_getLsbD v hk]

/-! #### The block within a frame -/

variable {s u : State} {a : BitFrac} {h : HalfFrac} {v : Nat → Bool} {k : Nat}

/-- In a frame whose edge call found the accumulators `a` and `h`, after the data instants before the `k`-th, which
sampled the levels `v 0`, `v 1`, … -/
structure InFrame (a : BitFrac) (h : HalfFrac) (v : Nat → Bool) (k : Nat) (u : State) : Prop where
  receiving : u.isReceiving = true
  index : u.bitIndex.toNat = k
  byte : ∀ j < 8, u.rxByte.getLsbD j = (decide (j < k) && v j)
  lastLevel : u.lastLevel = false
  seen : u.seenIdleHigh = true
  bitFrac : u.bitFracAccumulator = oneBitNext^[k + 1] a
  halfFrac : u.halfBitFracAccumulator = halfBitNext h

theorem InFrame.afterWait (hu : InFrame a h v k u) (n : Nat) (ws : List Cmd) : InFrame a h v k (afterWait n ws u) :=
  ⟨hu.receiving, hu.index, hu.byte, hu.lastLevel, hu.seen, hu.bitFrac, hu.halfFrac⟩

/-- The edge call begins the frame (R93). -/
theorem inFrame_edge (hs : EdgeReady s) (v : Nat → Bool) :
    InFrame s.bitFracAccumulator s.halfBitFracAccumulator v 0 (sample false s) := by
  obtain ⟨hidle, hseen, hlast⟩ := hs
  rw [sample_idle_edge hidle (by rw [hseen, hlast]; rfl)]
  constructor <;> simp [hseen]

theorem EdgeReady.ticks (hs : EdgeReady s) :
    (sample false s).ticksUntilSample.toNat + 1 = instantOffset s.bitFracAccumulator s.halfBitFracAccumulator 0 := by
  obtain ⟨hidle, hseen, hlast⟩ := hs
  rw [sample_idle_edge hidle (by rw [hseen, hlast]; rfl), instantOffset]
  simp

/-- A data instant takes the frame from one instant's wait to the next's (R97). -/
theorem InFrame.data (hu : InFrame a h v k u) (ht : u.ticksUntilSample.toNat = 0) (hk : k < 8) :
    InFrame a h v (k + 1) (sample (v k) u) := by
  have hb : u.bitIndex.toNat < 8 := by rw [hu.index]; exact hk
  rw [sample_data hu.receiving ht hb]
  constructor
  case receiving => simpa using hu.receiving
  case index => simpa [hu.index] using dataInstant_bitIndex_toNat u (v k) hb
  case byte =>
    intro j hj
    rw [State.emit_rxByte, dataInstant_rxByte, writeBit_getLsbD _ _ _ _ hj, hu.index, hu.byte j hj]
    rcases Nat.lt_trichotomy j k with hjk | rfl | hjk
    · simp [hjk, Nat.ne_of_lt hjk, Nat.lt_succ_of_lt hjk]
    · simp
    · simp [Nat.ne_of_gt hjk, Nat.not_lt.2 (Nat.le_of_lt hjk), Nat.not_le.2 hjk]
  case lastLevel => simpa using hu.lastLevel
  case seen => simpa using hu.seen
  case bitFrac => rw [State.emit_bitFracAccumulator, dataInstant_bitFracAccumulator, hu.bitFrac,
      Function.iterate_succ_apply' _ (k + 1)]
  case halfFrac => simpa using hu.halfFrac

theorem InFrame.data_ticks (hu : InFrame a h v k u) (ht : u.ticksUntilSample.toNat = 0) (hk : k < 8) (level : Bool) :
    instantOffset a h k + ((sample level u).ticksUntilSample.toNat + 1) = instantOffset a h (k + 1) := by
  rw [sample_data hu.receiving ht (by rw [hu.index]; exact hk), State.emit_ticksUntilSample, dataInstant_ticks_toNat,
    hu.bitFrac, instantOffset, Nat.add_assoc]

/-- The levels a frame samples, by the tick of each instant (R94, R100). -/
def sampledLevels (a : BitFrac) (h : HalfFrac) (levels : List Bool) (k : Nat) : Bool :=
  levels.getD (instantOffset a h k) false

theorem instantOffset_lt_succ (a : BitFrac) (h : HalfFrac) (k : Nat) :
    instantOffset a h k < instantOffset a h (k + 1) := by
  rw [instantOffset]
  omega

/-- The words left after `n` steps on the words of at least `n` levels. -/
theorem inputs_after_run {levels : List Bool} {rest : List Cmd} {n : Nat} (hrun : run n s = .next u)
    (hi : s.inputs = sampleWords levels ++ rest) (hn : n ≤ levels.length) :
    u.inputs = sampleWords (levels.drop n) ++ rest := by
  rw [run_inputs hrun, hi, List.drop_append_of_le_length (by rwa [length_sampleWords]), sampleWords, sampleWords,
    List.map_drop]

theorem head?_drop_instantOffset {levels : List Bool} (hk : instantOffset a h k < levels.length) :
    (levels.drop (instantOffset a h k)).head? = some (sampledLevels a h levels k) := by
  rw [List.head?_drop, sampledLevels, List.getD_eq_getElem levels false hk, List.getElem?_eq_getElem hk]

/-- Only a stop instant makes an event. -/
theorem sample_event_of_not_stop {level : Bool} (hn : atStopInstant s = false) : (sample level s).event = .none := by
  rw [sample_event, hn]
  rfl

/-- From the edge call the block comes to each of the nine instants, emitting nothing, whatever the other levels. -/
theorem exists_quietRun_to_instant {levels : List Bool} {rest : List Cmd} (hs : EdgeReady s)
    (ha : s.bitFracAccumulator = a) (hh : s.halfBitFracAccumulator = h)
    (h0 : levels.head? = some false) (hi : s.inputs = sampleWords levels ++ rest) (hk : k ≤ 8)
    (hlen : instantOffset a h k < levels.length) :
    ∃ u, QuietRun (instantOffset a h k) s u ∧ InFrame a h (sampledLevels a h levels) k u ∧
      u.ticksUntilSample.toNat = 0 := by
  subst ha hh
  induction k with
  | zero =>
    rw [← hs.ticks] at hlen ⊢
    have hframe := inFrame_edge hs (sampledLevels s.bitFracAccumulator s.halfBitFracAccumulator levels)
    obtain ⟨ws, hrun⟩ := exists_quietRun_to_next_instant hi h0 hframe.receiving
      (sample_event_of_not_stop (by simp [atStopInstant, atInstant, hs.1])) (by omega)
    exact ⟨_, hrun, hframe.afterWait _ ws, by simp⟩
  | succ k ih =>
    have hstep := instantOffset_lt_succ s.bitFracAccumulator s.halfBitFracAccumulator k
    obtain ⟨u, hrun, hu, ht⟩ := ih (by omega) (by omega)
    have hframe := hu.data ht hk
    have hticks := hu.data_ticks ht hk (sampledLevels s.bitFracAccumulator s.halfBitFracAccumulator levels k)
    have hdata : k < 8 := hk
    have hsilent := sample_event_of_not_stop (s := u)
      (level := sampledLevels s.bitFracAccumulator s.halfBitFracAccumulator levels k)
      (by simp [atStopInstant, dataBits_eq, hu.index, hdata])
    obtain ⟨ws, hnext⟩ := exists_quietRun_to_next_instant (inputs_after_run hrun.reaches hi (by omega))
      (head?_drop_instantOffset (by omega)) hframe.receiving hsilent (by rw [List.length_drop]; omega)
    rw [← hticks]
    exact ⟨_, hrun.trans hnext, hframe.afterWait _ ws, by simp⟩

/-- At the stop instant the byte holds the eight levels sampled (R42). -/
theorem InFrame.rxByte_eq (hu : InFrame a h v 8 u) : u.rxByte = byteOfLevels v :=
  eq_byteOfLevels fun j hj => by simpa [hj] using hu.byte j hj

/-- The stop instant makes the block Idle, and its event is the byte of the levels sampled or the framing error
(R98, R99). -/
theorem InFrame.stop (hu : InFrame a h v 8 u) (ht : u.ticksUntilSample.toNat = 0) (level : Bool) :
    sample level u =
      (stopInstant level u).emit (if level then .char (byteOfLevels v) else .framingError) := by
  rw [sample_stop hu.receiving ht (Nat.le_of_eq hu.index.symm), stopEvent, hu.rxByte_eq]

/-- A frame from its edge call to its stop instant, the sampled levels being `v`. -/
theorem exists_run_frame {levels : List Bool} {rest : List Cmd} (hs : EdgeReady s) (ha : s.bitFracAccumulator = a)
    (hh : s.halfBitFracAccumulator = h) (hv : sampledLevels a h levels = v)
    (hlen : levels.length = instantOffset a h 8 + 1) (h0 : levels.head? = some false)
    (hi : s.inputs = sampleWords levels ++ rest) :
    eventTrace (instantOffset a h 8 + 1) s =
        List.replicate (instantOffset a h 8) .none ++ [if v 8 then .char (byteOfLevels v) else .framingError] ∧
      ∃ t, run (instantOffset a h 8 + 1) s = .next t ∧ t.isReceiving = false ∧ t.bitIndex.toNat = 8 ∧
        t.rxByte = byteOfLevels v ∧ t.lastLevel = false ∧ t.seenIdleHigh = true ∧ t.inputs = rest ∧
        t.bitFracAccumulator = oneBitNext^[9] a ∧ t.halfBitFracAccumulator = h + 1 := by
  subst hv
  obtain ⟨u, hrun, hu, ht⟩ := exists_quietRun_to_instant hs ha hh h0 hi (Nat.le_refl 8) (by omega)
  have hui : u.inputs = sampleWord (sampledLevels a h levels 8) :: rest := by
    rw [inputs_after_run hrun.reaches hi (by omega), List.drop_eq_getElem_cons (by omega),
      List.drop_eq_nil_of_le (by omega), sampledLevels, List.getD_eq_getElem levels false (by omega)]
    rfl
  have hstep := step_sample hui
  rw [hu.stop ht] at hstep
  refine ⟨?_, _, (run_add hrun.reaches 1).trans (run_succ hstep 0), rfl, hu.index, hu.rxByte_eq, hu.lastLevel, hu.seen,
    rfl, hu.bitFrac, hu.halfFrac.trans (halfBitNext_eq h)⟩
  rw [eventTrace_add hrun.reaches, hrun.events, eventTrace_succ hstep]
  rfl

/-- Settles O42: the block comes to the stop instant emitting nothing, and the step there ends the frame. -/
theorem frameLaw : Obligations.FrameLaw := by
  unfold Obligations.FrameLaw
  intro s levels rest hs hlen h0 hi off v byte
  obtain ⟨htrace, hend⟩ := exists_run_frame hs rfl rfl (v := fun k => v (off k)) rfl hlen h0 hi
  exact ⟨htrace, fun k hk => byteOfLevels_getLsbD _ hk, hend⟩

end Sys2Proof.Machine
end

section
/-! SUPPORT. Streams of frames: a frame's levels and where its instants fall among them (R61, R160), one frame of a
stream, and the stream (O49). -/

namespace Sys2Proof.Machine

/-! #### The levels of a frame (R61) -/

/-- The level of frame bit `k`: the start bit, the data bits least significant first, the stop bit. -/
def frameBit (b : Byte) (stop : Bool) : Nat → Bool
  | 0 => false
  | k + 1 => if k < 8 then b.getLsbD k else stop

/-- The levels of `m` bits, each held for its ticks. -/
def bitLevels (v : Nat → Bool) (m : Nat) : List Bool := (List.range m).flatMap fun k => List.replicate (bitLen k) (v k)

theorem bitLevels_succ (v : Nat → Bool) (m : Nat) :
    bitLevels v (m + 1) = bitLevels v m ++ List.replicate (bitLen m) (v m) := by
  rw [bitLevels, List.range_succ, List.flatMap_append, List.flatMap_singleton, ← bitLevels]

/-- Bit `m` begins after `m * 3125 / 2` ticks (R61). -/
@[simp] theorem length_bitLevels (v : Nat → Bool) (m : Nat) : (bitLevels v m).length = m * 3125 / 2 := by
  induction m with
  | zero => rfl
  | succ m ih =>
    rw [bitLevels_succ, List.length_append, List.length_replicate, ih, bitLen]
    omega

/-- A tick within the window of bit `k` has the level of that bit. -/
theorem bitLevels_getD (v : Nat → Bool) {m k n : Nat} (hk : k < m) (hlo : k * 3125 / 2 ≤ n)
    (hhi : n < (k + 1) * 3125 / 2) : (bitLevels v m).getD n false = v k := by
  induction m with
  | zero => omega
  | succ m ih =>
    rw [bitLevels_succ]
    rcases Nat.lt_or_eq_of_le (Nat.le_of_lt_succ hk) with h | rfl
    · have hend : (k + 1) * 3125 / 2 ≤ m * 3125 / 2 := Nat.div_le_div_right (Nat.mul_le_mul_right 3125 h)
      have hlen := length_bitLevels v m
      rw [List.getD_append _ _ _ _ (by omega), ih h]
    · have hlen := length_bitLevels v k
      rw [List.getD_append_right _ _ _ _ (hlen.le.trans hlo), hlen, List.getD_replicate]
      rw [bitLen]
      omega

theorem stimulusWords_frameItems (b : Byte) (stop : Bool) :
    stimulusWords (frameItems b stop) = sampleWords (bitLevels (frameBit b stop) 10) := by
  have hitems : frameItems b stop = (List.range 10).flatMap fun k => bitItems (frameBit b stop k) k := rfl
  rw [hitems, stimulusWords, List.flatMap_assoc, bitLevels, sampleWords, List.map_flatMap]
  refine List.flatMap_congr fun k _ => ?_
  rw [List.map_replicate]
  exact stimulusWords_bitItems _ k

theorem stimulusWords_idleItems (n : Nat) : stimulusWords (idleItems n) = sampleWords (List.replicate n true) := by
  rw [idleItems, stimulusWords_singleton, sampleWords, List.map_replicate]
  rfl

/-! #### Where the instants fall (R160) -/

/-- Instant `k` is within a few ticks of `k + 3/2` bit periods, whatever the accumulators hold. -/
theorem instantOffset_bounds (a : BitFrac) (h : HalfFrac) (k : Nat) :
    2344 + 1563 * k ≤ instantOffset a h k ∧ instantOffset a h k ≤ 2346 + 1564 * k := by
  induction k with
  | zero =>
    have := halfBitCount_cases h
    have := oneBitCount_cases a
    rw [instantOffset]
    omega
  | succ k ih =>
    have := oneBitCount_cases (oneBitNext^[k + 1] a)
    rw [instantOffset]
    omega

theorem instantOffset_mono (a : BitFrac) (h : HalfFrac) : Monotone (instantOffset a h) :=
  monotone_nat_of_le_succ fun k => Nat.le_of_lt (instantOffset_lt_succ a h k)

/-- Only the levels up to the stop instant count. -/
theorem sampledLevels_take (a : BitFrac) (h : HalfFrac) (levels : List Bool) {k : Nat} (hk : k ≤ 8) :
    sampledLevels a h (levels.take (instantOffset a h 8 + 1)) k = sampledLevels a h levels k := by
  have hle := instantOffset_mono a h hk
  rw [sampledLevels, sampledLevels, List.getD_eq_getElem?_getD, List.getElem?_take_of_lt (by omega),
    ← List.getD_eq_getElem?_getD]

/-- Each instant lies in the window of the bit it is for (R160). -/
theorem sampledLevels_bitLevels (a : BitFrac) (h : HalfFrac) (v : Nat → Bool) {k : Nat} (hk : k ≤ 8) :
    sampledLevels a h (bitLevels v 10) k = v (k + 1) := by
  obtain ⟨hlo, hhi⟩ := instantOffset_bounds a h k
  exact bitLevels_getD v (by omega) (by omega) (by omega)

/-! #### The events a host takes notice of (R55) -/

variable {s t u : State}

theorem visibleEvents_add {n : Nat} (h : run n s = .next t) (m : Nat) :
    visibleEvents (n + m) s = visibleEvents n s ++ visibleEvents m t := by
  rw [visibleEvents, eventTrace_add h, List.filter_append]
  rfl

theorem QuietRun.visibleEvents_eq_nil {n : Nat} (h : QuietRun n s t) : visibleEvents n s = [] := by
  rw [visibleEvents, h.events]
  simp

theorem visibleEvents_of_last {n m : Nat} {e : Event} (h : eventTrace n s = List.replicate m .none ++ [e])
    (he : e ≠ .none) : visibleEvents n s = [e] := by
  simp [visibleEvents, h, List.filter_append, he]

/-! #### One frame of a stream -/

/-- The levels of a frame and of the line after it. -/
def StreamFrame.levels (f : StreamFrame) : List Bool :=
  bitLevels (frameBit f.byte f.stop) 10 ++ List.replicate f.gap true

theorem StreamFrame.words_eq (f : StreamFrame) : f.words = sampleWords f.levels := by
  rw [StreamFrame.words, stimulusWords_append, stimulusWords_frameItems, stimulusWords_idleItems, StreamFrame.levels,
    sampleWords_append]

theorem StreamFrame.length_levels (f : StreamFrame) : f.levels.length = 15625 + f.gap := by
  have hbits := length_bitLevels (frameBit f.byte f.stop) 10
  rw [StreamFrame.levels, List.length_append, List.length_replicate]
  omega

/-- A frame begins with the start bit. -/
theorem StreamFrame.head?_levels (f : StreamFrame) : f.levels.head? = some false := rfl

/-- After the stop instant the line holds the stop bit for the rest of the frame. -/
theorem StreamFrame.levels_drop (f : StreamFrame) {n : Nat} (hlo : 14062 ≤ n) (hhi : n ≤ 15625) :
    f.levels.drop n = List.replicate (15625 - n) f.stop ++ List.replicate f.gap true := by
  have hlen := length_bitLevels (frameBit f.byte f.stop) 9
  have hlen' := length_bitLevels (frameBit f.byte f.stop) 10
  rw [StreamFrame.levels, List.drop_append_of_le_length (by omega), bitLevels_succ, List.drop_append,
    List.drop_eq_nil_of_le (by omega), hlen, List.nil_append, List.drop_replicate]
  have hrest : bitLen 9 - (n - 9 * 3125 / 2) = 15625 - n := by
    rw [bitLen]
    omega
  rw [hrest]
  rfl

/-- The nine instants sample the data bits and the stop bit. -/
theorem StreamFrame.sampledLevels_take (f : StreamFrame) (a : BitFrac) (h : HalfFrac) {k : Nat} (hk : k ≤ 8) :
    sampledLevels a h (f.levels.take (instantOffset a h 8 + 1)) k = frameBit f.byte f.stop (k + 1) := by
  have hoff := instantOffset_bounds a h k
  have hlen := length_bitLevels (frameBit f.byte f.stop) 10
  rw [Machine.sampledLevels_take a h f.levels hk, ← sampledLevels_bitLevels a h (frameBit f.byte f.stop) hk,
    sampledLevels, sampledLevels, StreamFrame.levels, List.getD_append _ _ _ _ (by omega)]

/-- The event of the frame law is the one the frame is to produce. -/
theorem StreamFrame.event_eq (f : StreamFrame) {v : Nat → Bool} (hv : ∀ k ≤ 8, v k = frameBit f.byte f.stop (k + 1)) :
    (if v 8 then .char (byteOfLevels v) else .framingError) = f.event := by
  have hstop : v 8 = f.stop := hv 8 (Nat.le_refl 8)
  have hbyte : f.byte = byteOfLevels v := eq_byteOfLevels fun k hk => by
    rw [hv k (Nat.le_of_lt hk), frameBit, if_pos hk]
  rw [hstop, ← hbyte, StreamFrame.event]

/-- The rest of the stop bit and the gap: the line does not fall after a low stop bit, and it ends high. -/
theorem StreamFrame.levels_drop_rises (f : StreamFrame) (hgap : f.stop = false → 1 ≤ f.gap) {n : Nat}
    (hlo : 14062 ≤ n) (hhi : n < 15625) :
    hasFall (false :: f.levels.drop n) = false ∧ (f.levels.drop n).getLastD false = true := by
  have hrest : 15625 - n ≠ 0 := by omega
  rw [hasFall_eq_false_iff, f.levels_drop hlo (Nat.le_of_lt hhi)]
  cases hstop : f.stop with
  | true =>
    rw [List.replicate_append_replicate]
    simp [List.pairwise_replicate, List.getLast?_replicate, hrest]
  | false =>
    have hpos : f.gap ≠ 0 := Nat.ne_of_gt (hgap hstop)
    simp [List.pairwise_append, List.pairwise_replicate, List.getLast?_append, List.getLast?_replicate, hpos]

theorem StreamFrame.event_ne_none (f : StreamFrame) : f.event ≠ .none := by
  rw [StreamFrame.event]
  split <;> simp

/-- A frame of a stream up to its stop instant. -/
theorem exists_run_to_stop (hs : EdgeReady s) (f : StreamFrame) {rest : List Cmd}
    (hi : s.inputs = f.words ++ rest) {n : Nat}
    (hn : n = instantOffset s.bitFracAccumulator s.halfBitFracAccumulator 8 + 1) :
    ∃ u, run n s = .next u ∧ visibleEvents n s = [f.event] ∧ u.isReceiving = false ∧ u.lastLevel = false ∧
      u.seenIdleHigh = true ∧ u.inputs = sampleWords (f.levels.drop n) ++ rest ∧
      u.bitFracAccumulator = oneBitNext^[9] s.bitFracAccumulator ∧
      u.halfBitFracAccumulator = s.halfBitFracAccumulator + 1 := by
  have hoff := instantOffset_bounds s.bitFracAccumulator s.halfBitFracAccumulator 8
  have hlen : (f.levels.take n).length = n := by
    rw [List.length_take, f.length_levels]
    omega
  have hhead : (f.levels.take n).head? = some false := by
    rw [List.head?_take, if_neg (by omega), f.head?_levels]
  have hi' : s.inputs = sampleWords (f.levels.take n) ++ (sampleWords (f.levels.drop n) ++ rest) := by
    rw [hi, f.words_eq, ← List.append_assoc, ← sampleWords_append, List.take_append_drop]
  obtain ⟨htrace, u, hrun, hidle, -, -, hlast, hseen, hui, hbitFrac, hhalfFrac⟩ :=
    exists_run_frame hs rfl rfl rfl (hlen.trans hn) hhead hi'
  rw [← hn] at htrace hrun
  rw [f.event_eq fun k hk => by rw [hn, f.sampledLevels_take _ _ hk]] at htrace
  exact ⟨u, hrun, visibleEvents_of_last htrace f.event_ne_none, hidle, hlast, hseen, hui, hbitFrac, hhalfFrac⟩

/-- One frame of a stream: its one event, ready for the next frame's edge, the generator called as R79 says. -/
theorem exists_run_streamFrame (hs : EdgeReady s) (f : StreamFrame) (hgap : f.stop = false → 1 ≤ f.gap)
    {rest : List Cmd} (hi : s.inputs = f.words ++ rest) :
    ∃ t, run f.words.length s = .next t ∧ visibleEvents f.words.length s = [f.event] ∧ EdgeReady t ∧
      t.bitFracAccumulator = oneBitNext^[9] s.bitFracAccumulator ∧
      t.halfBitFracAccumulator = s.halfBitFracAccumulator + 1 := by
  have hoff := instantOffset_bounds s.bitFracAccumulator s.halfBitFracAccumulator 8
  obtain ⟨n, hn⟩ : ∃ n, n = instantOffset s.bitFracAccumulator s.halfBitFracAccumulator 8 + 1 := ⟨_, rfl⟩
  obtain ⟨u, hrun, hevents, hidle, hlast, hseen, hui, hbitFrac, hhalfFrac⟩ := exists_run_to_stop hs f hi hn
  obtain ⟨hfall, hhigh⟩ := f.levels_drop_rises hgap (n := n) (by omega) (by omega)
  have htail := quietRun_idle hidle (by rw [hlast, Bool.and_false]; exact hfall) hui
  have hwords : f.words.length = n + (f.levels.drop n).length := by
    rw [f.words_eq, length_sampleWords, List.length_drop, f.length_levels]
    omega
  rw [hwords]
  refine ⟨_, (run_add hrun _).trans htail.reaches, ?_, ⟨hidle, ?_, ?_⟩, hbitFrac, hhalfFrac⟩
  · rw [visibleEvents_add hrun, hevents, htail.visibleEvents_eq_nil, List.append_nil]
  · rw [afterIdle_seenIdleHigh, hseen, Bool.true_or]
  · rw [afterIdle_lastLevel, hlast, hhigh]

/-! #### The stream -/

/-- In the legal range one call of the one-bit operation adds `ONE_REM` modulo `B`, so `n` calls add `n` times that. -/
theorem iterate_oneBitNext_toNat {a : BitFrac} (ha : a.toNat < 115200) (n : Nat) :
    (oneBitNext^[n] a).toNat = (a.toNat + 57600 * n) % 115200 := by
  induction n with
  | zero => exact (Nat.mod_eq_of_lt ha).symm
  | succ n ih =>
    rw [Function.iterate_succ_apply', oneBitNext_toNat, ih]
    split <;> omega

/-- Frames that begin ready for an edge: one event per frame, by induction on the frames. -/
theorem exists_run_streamFrames {frames : List StreamFrame} {rest : List Cmd} (hs : EdgeReady s)
    (ha : s.bitFracAccumulator.toNat < 115200) (hgap : ∀ f ∈ frames, f.stop = false → 1 ≤ f.gap)
    (hi : s.inputs = frames.flatMap StreamFrame.words ++ rest) :
    ∃ t, run (frames.flatMap StreamFrame.words).length s = .next t ∧
      visibleEvents (frames.flatMap StreamFrame.words).length s = frames.map StreamFrame.event ∧ EdgeReady t ∧
      t.bitFracAccumulator.toNat = (s.bitFracAccumulator.toNat + 57600 * frames.length) % 115200 ∧
      t.halfBitFracAccumulator.toNat = (s.halfBitFracAccumulator.toNat + frames.length) % 4 := by
  induction frames generalizing s with
  | nil => exact ⟨s, rfl, rfl, hs, (Nat.mod_eq_of_lt ha).symm, (Nat.mod_eq_of_lt s.halfBitFracAccumulator.isLt).symm⟩
  | cons f fs ih =>
    obtain ⟨hf, hfs⟩ := List.forall_mem_cons.1 hgap
    rw [List.flatMap_cons, List.append_assoc] at hi
    obtain ⟨u, hrun, hevents, hu, hbitFrac, hhalfFrac⟩ := exists_run_streamFrame hs f hf hi
    have hbf : u.bitFracAccumulator.toNat = (s.bitFracAccumulator.toNat + 57600) % 115200 := by
      rw [hbitFrac, iterate_oneBitNext_toNat ha]
      omega
    have hhf : u.halfBitFracAccumulator.toNat = (s.halfBitFracAccumulator.toNat + 1) % 4 := by
      rw [hhalfFrac, ← halfBitNext_eq, halfBitNext_toNat]
    obtain ⟨t, hrun', hevents', ht, hbf', hhf'⟩ := ih hu (by omega) hfs (run_inputs_append hi hrun)
    rw [List.flatMap_cons, List.length_append, List.map_cons, List.length_cons]
    refine ⟨t, (run_add hrun _).trans hrun', ?_, ht, ?_, ?_⟩
    · rw [visibleEvents_add hrun, hevents, hevents', List.singleton_append]
    · rw [hbf', hbf]
      omega
    · rw [hhf', hhf]
      omega

/-- Logic-1 ticks make an Idle block ready for an edge (R91, R93). -/
theorem exists_quietRun_edgeReady {n : Nat} {rest : List Cmd} (h : s.isReceiving = false)
    (hi : s.inputs = sampleWords (List.replicate (n + 1) true) ++ rest) :
    ∃ u, QuietRun (n + 1) s u ∧ EdgeReady u ∧ u.inputs = rest ∧ u.bitFracAccumulator = s.bitFracAccumulator ∧
      u.halfBitFracAccumulator = s.halfBitFracAccumulator :=
  ⟨_, quietRun_high h hi, ⟨h, rfl, rfl⟩, rfl, rfl, rfl⟩

/-- Settles O49: the leading logic-1 ticks make the block ready for an edge, and the frames follow. -/
theorem streamOfFramesIsDecoded : Obligations.StreamOfFramesIsDecoded := by
  unfold Obligations.StreamOfFramesIsDecoded
  intro s lead frames rest hinv hidle hlead hgap words hi
  obtain ⟨n, rfl⟩ := Nat.exists_eq_add_of_le' hlead
  have hi' : s.inputs = sampleWords (List.replicate (n + 1) true) ++ (frames.flatMap StreamFrame.words ++ rest) := by
    rw [hi, ← List.append_assoc, ← stimulusWords_idleItems]
  obtain ⟨u, hquiet, hready, hui, hbf, hhf⟩ := exists_quietRun_edgeReady hidle hi'
  have hlegal : u.bitFracAccumulator.toNat < 115200 := by
    rw [hbf]
    obtain h | h := hinv.phase <;> rw [h] <;> decide
  obtain ⟨t, hrun, hevents, ht, hbitFrac, hhalfFrac⟩ := exists_run_streamFrames hready hlegal hgap hui
  rw [hbf] at hbitFrac
  rw [hhf] at hhalfFrac
  have hlen : words.length = n + 1 + (frames.flatMap StreamFrame.words).length := by
    rw [List.length_append, stimulusWords_idleItems, length_sampleWords, List.length_replicate]
  have hwhole : run words.length s = .next t := by
    rw [hlen]
    exact (run_add hquiet.reaches _).trans hrun
  refine ⟨?_, t, hwhole, ht.1, run_inputs_append hi hwhole, hbitFrac, hhalfFrac⟩
  rw [hlen, visibleEvents_add hquiet.reaches, hquiet.visibleEvents_eq_nil, hevents, List.nil_append]

end Sys2Proof.Machine
end

section
/-! SUPPORT. The paths of R90 in numerals, for `SAMPLE` and for the selected arm (O6, O10, O12, O14 to O19), and the
flags a step in Receiving does not read (O36). -/

namespace Sys2Proof.Machine

variable {s u : State} {level : Bool}

/-- The arm selected does what `SAMPLE` does: one case per path of R90. -/
theorem exec_selectArm (level : Bool) (s : State) : exec (selectArm level s) s = .next (sample level s) := by
  rcases samplePath level s with ⟨h, rfl⟩ | ⟨h, rfl, hn⟩ | ⟨h, rfl, hn⟩ | ⟨h, ht⟩ | ⟨h, ht, hb⟩ | ⟨h, ht, hb⟩
  · rw [selectArm_idle_high h, sample_idle_high h]
    exact whenSelected_of_guard (armGuard_idleHigh_iff.2 h)
  · rw [selectArm_idle_noEdge h hn, sample_idle_noEdge h hn]
    exact whenSelected_of_guard (armGuard_idleLowNoEdge_iff.2 ⟨h, hn⟩)
  · rw [selectArm_idle_edge h hn, sample_idle_edge h hn]
    exact whenSelected_of_guard (armGuard_idleLowEdge_iff.2 ⟨h, hn⟩)
  · rw [selectArm_wait h ht, sample_wait h ht]
    exact whenSelected_of_guard ((armGuard_rxWait_iff level).2 ⟨h, ht⟩)
  · rw [selectArm_data h ht hb, sample_data h ht hb]
    exact whenSelected_of_guard ((armGuard_rxData_iff level).2 ⟨h, ht, hb⟩)
  · rw [selectArm_stop h ht hb, sample_stop h ht hb]
    cases level with
    | false => exact whenSelected_of_guard (armGuard_rxStopErr_iff.2 ⟨h, ht, hb⟩)
    | true => exact whenSelected_of_guard (armGuard_rxStopOk_iff.2 ⟨h, ht, hb⟩)

/-- Settles O6. -/
theorem sampleDoesWhatItsSelectedArmDoes : Obligations.SampleDoesWhatItsSelectedArmDoes := by
  unfold Obligations.SampleDoesWhatItsSelectedArmDoes
  intro s level
  rw [exec_sampleInstr, decodeIn_sampleWord, exec_selectArm]

theorem leaves_sampleInstr_iff : Leaves (sampleInstr level) s u ↔ SameBlock (sample level s) u := by
  simp [Leaves]

theorem leaves_selectArm_iff : Leaves (selectArm level s) s u ↔ SameBlock (sample level s) u := by
  simp [Leaves, exec_selectArm]

/-! #### The block each path leaves -/

/-- The count a generator operation answered is no field of the block. -/
theorem sameBlock_emit (s : State) (e : Event) : SameBlock (s.emit e) { s with event := e } :=
  ⟨rfl, rfl, rfl, rfl, rfl, rfl, rfl, rfl, rfl⟩

theorem sameBlock_sample_idle_high (h : s.isReceiving = false) :
    SameBlock (sample true s) { s with seenIdleHigh := true, lastLevel := true, event := .none } := by
  rw [sample_idle_high h]
  exact sameBlock_emit _ _

theorem sameBlock_sample_idle_noEdge (h : s.isReceiving = false) (hn : ¬(s.seenIdleHigh = true ∧ s.lastLevel = true)) :
    SameBlock (sample false s) { s with lastLevel := false, event := .none } := by
  rw [← Bool.and_eq_true, Bool.not_eq_true] at hn
  rw [sample_idle_noEdge h hn]
  exact sameBlock_emit _ _

/-- The edge call leaves the numerals of R93, the sum of the two counts exact. -/
theorem sameBlock_sample_idle_edge (h : s.isReceiving = false) (hs : s.seenIdleHigh = true) (hl : s.lastLevel = true) :
    SameBlock (sample false s) (spelledEdge s) := by
  rw [sample_idle_edge h (by rw [hs, hl]; rfl)]
  have hspelled : spelledEdge s = { (startFrame s).setLastLevel false with event := .none } := by
    rw [spelledEdge, startFrame_eq, ofNat_spelledOneNext, ← halfBitNext_eq, spelledHalfCount_eq, spelledOneCount_eq]
    rfl
  rw [hspelled]
  exact sameBlock_emit _ _

theorem spelledWait_ticks_toNat (ht : 0 < s.ticksUntilSample.toNat) :
    (spelledWait s).ticksUntilSample.toNat = s.ticksUntilSample.toNat - 1 :=
  BitVec.toNat_sub_of_le (y := 1#12) ht

theorem sameBlock_sample_wait (h : s.isReceiving = true) (ht : 0 < s.ticksUntilSample.toNat) :
    SameBlock (sample level s) (spelledWait s) := by
  rw [sample_wait h ht]
  have hticks : s.ticksUntilSample - 1 = (waitTick s).ticksUntilSample :=
    BitVec.eq_of_toNat_eq ((spelledWait_ticks_toNat ht).trans (waitTick_ticks_toNat s).symm)
  have hspelled : spelledWait s = { waitTick s with event := .none } := by
    rw [spelledWait, hticks]
    rfl
  rw [hspelled]
  exact sameBlock_emit _ _

theorem storesBit_writeBit (level : Bool) (s : State) :
    StoresBit level s (writeBit s.rxByte s.bitIndex.toNat level) :=
  fun k hk => writeBit_getLsbD _ _ _ k hk

theorem spelledData_bitIndex_toNat (b : Byte) (hb : s.bitIndex.toNat < 8) :
    (spelledData b s).bitIndex.toNat = s.bitIndex.toNat + 1 :=
  BitVec.toNat_add_of_lt (y := 1#4) (by simp; omega)

theorem sameBlock_sample_data (h : s.isReceiving = true) (ht : s.ticksUntilSample.toNat = 0)
    (hb : s.bitIndex.toNat < 8) :
    SameBlock (sample level s) (spelledData (writeBit s.rxByte s.bitIndex.toNat level) s) := by
  rw [sample_data h ht hb]
  have hindex : s.bitIndex + 1 = BitVec.ofNat 4 (s.bitIndex.toNat + 1) := by
    rw [BitVec.ofNat_add, BitVec.ofNat_toNat, BitVec.setWidth_eq]
    rfl
  have hspelled : spelledData (writeBit s.rxByte s.bitIndex.toNat level) s =
      { dataInstant level s with event := .none } := by
    rw [spelledData, dataInstant_eq, ofNat_spelledOneNext, spelledOneCount_eq, hindex]
    rfl
  rw [hspelled]
  exact sameBlock_emit _ _

theorem sameBlock_sample_stop (h : s.isReceiving = true) (ht : s.ticksUntilSample.toNat = 0)
    (hb : 8 ≤ s.bitIndex.toNat) :
    SameBlock (sample level s) { s with isReceiving := false, event := stopEvent level s } := by
  rw [sample_stop h ht hb]
  exact sameBlock_emit _ _

/-- Settles O10: one lemma per path. -/
theorem sampleFollowsItsPseudocode : Obligations.SampleFollowsItsPseudocode := by
  unfold Obligations.SampleFollowsItsPseudocode
  intro s level
  simp only [leaves_sampleInstr_iff]
  refine ⟨?_, ?_, ?_, fun h ht => sameBlock_sample_wait h ht,
    fun h ht hb => ⟨_, storesBit_writeBit level s, sameBlock_sample_data h ht hb⟩,
    fun h ht hb => sameBlock_sample_stop h ht hb⟩
  · rintro h rfl
    exact sameBlock_sample_idle_high h
  · rintro h rfl hn
    exact sameBlock_sample_idle_noEdge h hn
  · rintro h rfl hs hl
    exact sameBlock_sample_idle_edge h hs hl

/-! #### The arms -/

theorem leaves_idleHigh_iff (h : s.isReceiving = false) : Leaves .idleHigh s u ↔ SameBlock (sample true s) u := by
  rw [← leaves_selectArm_iff, selectArm_idle_high h]

/-- Settles O12: a second application finds both flags set and no event. -/
theorem idleHighSetsSeenAndLastLevel : Obligations.IdleHighSetsSeenAndLastLevel := by
  unfold Obligations.IdleHighSetsSeenAndLastLevel
  intro s h
  refine ⟨(leaves_idleHigh_iff h).2 (sameBlock_sample_idle_high h), fun t ht => ?_⟩
  rw [← selectArm_idle_high h, exec_selectArm, sample_idle_high h] at ht
  cases ht
  have hidle : (((s.setSeenIdleHigh true).setLastLevel true).emit .none).isReceiving = false := h
  exact (leaves_idleHigh_iff hidle).2 (sameBlock_sample_idle_high hidle)

/-- Settles O14. -/
theorem idleLowWithoutEdgeClearsLastLevelOnly : Obligations.IdleLowWithoutEdgeClearsLastLevelOnly := by
  unfold Obligations.IdleLowWithoutEdgeClearsLastLevelOnly
  intro s h hn
  have hn' : (s.seenIdleHigh && s.lastLevel) = false := by rwa [← Bool.not_eq_true, Bool.and_eq_true]
  rw [← selectArm_idle_noEdge h hn', leaves_selectArm_iff]
  exact sameBlock_sample_idle_noEdge h hn

/-- Settles O15. -/
theorem edgeCallStartsAFrame : Obligations.EdgeCallStartsAFrame := by
  unfold Obligations.EdgeCallStartsAFrame
  intro s h hs hl
  have hedge := sameBlock_sample_idle_edge h hs hl
  have hn : (s.seenIdleHigh && s.lastLevel) = true := by rw [hs, hl]; rfl
  have hticks : (spelledEdge s).ticksUntilSample.toNat = spelledHalfCount s + spelledOneCount s := by
    rw [← hedge.ticksUntilSample, sample_idle_edge h hn, spelledHalfCount_eq, spelledOneCount_eq]
    exact startFrame_ticks_toNat s
  refine ⟨?_, hticks, ?_, ?_⟩
  · rw [← selectArm_idle_edge h hn, leaves_selectArm_iff]
    exact hedge
  · rw [spelledEdge, ofNat_spelledOneNext, spelledOneNext_eq]
  · have hhalf := halfBitCount_cases s.halfBitFracAccumulator
    have hone := oneBitCount_cases s.bitFracAccumulator
    rw [hticks, spelledHalfCount_eq, spelledOneCount_eq]
    omega

/-- Settles O16. -/
theorem waitingStepOnlyCountsDown : Obligations.WaitingStepOnlyCountsDown := by
  unfold Obligations.WaitingStepOnlyCountsDown
  intro s v h ht
  refine ⟨?_, spelledWait_ticks_toNat ht⟩
  rw [← selectArm_wait (level := v) h ht, leaves_selectArm_iff]
  exact sameBlock_sample_wait h ht

/-- Settles O17. -/
theorem dataInstantStoresOneBit : Obligations.DataInstantStoresOneBit := by
  unfold Obligations.DataInstantStoresOneBit
  intro s v h ht hb
  refine ⟨_, storesBit_writeBit v s, ?_, spelledData_bitIndex_toNat _ hb, ?_, ?_⟩
  · rw [← selectArm_data (level := v) h ht hb, leaves_selectArm_iff]
    exact sameBlock_sample_data h ht hb
  · have hone := oneBitCount_cases s.bitFracAccumulator
    rw [spelledData, BitVec.toNat_ofNat, spelledOneCount_eq]
    omega
  · rw [spelledData, ofNat_spelledOneNext, spelledOneNext_eq]

/-- Settles O18. -/
theorem goodStopBitEmitsTheByte : Obligations.GoodStopBitEmitsTheByte := by
  unfold Obligations.GoodStopBitEmitsTheByte
  intro s h ht hb
  have harm : selectArm true s = .rxStopOk := selectArm_stop h ht hb
  rw [← harm, leaves_selectArm_iff]
  exact sameBlock_sample_stop h ht hb

/-- Settles O19. -/
theorem badStopBitReportsFramingError : Obligations.BadStopBitReportsFramingError := by
  unfold Obligations.BadStopBitReportsFramingError
  intro s h ht hb
  have harm : selectArm false s = .rxStopErr := selectArm_stop h ht hb
  rw [← harm, leaves_selectArm_iff]
  exact sameBlock_sample_stop h ht hb

/-! #### The flags of edge detection in Receiving (R95) -/

/-- The state with other values in the two fields that only Idle steps use (R27, R28). -/
def State.setEdgeTracking (l n : Bool) (s : State) : State := { s with lastLevel := l, seenIdleHigh := n }

/-- A step in Receiving neither reads nor writes them. -/
theorem sample_setEdgeTracking_of_receiving (level l n : Bool) (h : s.isReceiving = true) :
    sample level (s.setEdgeTracking l n) = (sample level s).setEdgeTracking l n := by
  have h' : (s.setEdgeTracking l n).isReceiving = true := h
  rcases Nat.eq_zero_or_pos s.ticksUntilSample.toNat with ht | ht
  · rcases Nat.lt_or_ge s.bitIndex.toNat 8 with hb | hb
    · rw [sample_data h ht hb, sample_data h' ht hb, dataInstant_eq, dataInstant_eq]
      rfl
    · rw [sample_stop h ht hb, sample_stop h' ht hb]
      rfl
  · rw [sample_wait h ht, sample_wait h' ht]
    rfl

/-- Settles O36. -/
theorem receivingLeavesEdgeTrackingAlone : Obligations.ReceivingLeavesEdgeTrackingAlone := by
  unfold Obligations.ReceivingLeavesEdgeTrackingAlone
  intro s level h
  obtain ⟨-, hlast, hseen⟩ := sample_flags_of_receiving level h
  refine ⟨sample level s, exec_sampleInstr level s, hlast, hseen, fun l n => ?_⟩
  rw [exec_sampleInstr]
  exact congrArg Host.Outcome.next (sample_setEdgeTracking_of_receiving level l n h)

end Sys2Proof.Machine
end

section
/-! SUPPORT. Where the instants of a frame fall (R94, R100, R160) and the shortest spacing of frames (R161, R162): the
instants in closed form, the schedule of a frame tick by tick (O43), and a frame's edge call two ticks after a stop
instant (O46). -/

namespace Sys2Proof.Machine

variable {s u : State} {a : BitFrac} {h : HalfFrac} {v : Nat → Bool} {k n : Nat}

/-! #### The instants in closed form -/

/-- The offset of instant `k` for accumulators of value `a` and `h`: a half bit and `k + 1` bits of 1562 ticks, one tick
for each instant, and the fractional ticks the accumulator has paid out by then. -/
def phaseOffset (a h k : Nat) : Nat :=
  (if (h + 1) % 4 = 0 then 782 else 781) + 1563 * (k + 1) + (a + 57600 * (k + 1)) / 115200

theorem instantOffset_eq_phaseOffset (ha : a.toNat < 115200) (h : HalfFrac) (k : Nat) :
    instantOffset a h k = phaseOffset a.toNat h.toNat k := by
  rw [phaseOffset, ← halfBitCount_toNat]
  induction k with
  | zero =>
    rw [instantOffset, oneBitCount_toNat]
    split <;> omega
  | succ k ih =>
    rw [instantOffset, ih, oneBitCount_toNat, iterate_oneBitNext_toNat ha]
    split <;> omega

/-- R161: in a reachable phase the stop instant comes 14852 to 14854 ticks after the edge call. -/
theorem Inv.instantOffset_eight_bounds (hinv : Inv s) :
    14852 ≤ instantOffset s.bitFracAccumulator s.halfBitFracAccumulator 8 ∧
      instantOffset s.bitFracAccumulator s.halfBitFracAccumulator 8 ≤ 14854 := by
  have hphase : s.bitFracAccumulator.toNat = 0 ∨ s.bitFracAccumulator.toNat = 57600 :=
    hinv.phase.imp (congrArg BitVec.toNat) (congrArg BitVec.toNat)
  rw [instantOffset_eq_phaseOffset (by omega), phaseOffset]
  split <;> omega

/-- R160: in every legal phase each instant is 770 ticks or more from either boundary of its bit. -/
theorem phaseOffset_margins {a h k : Nat} (ha : a < 115200) (hk : k < 9) :
    (k + 1) * 3125 / 2 + 770 ≤ phaseOffset a h k ∧ phaseOffset a h k + 770 ≤ (k + 2) * 3125 / 2 := by
  unfold phaseOffset
  split <;> omega

/-! #### The schedule of a frame, tick by tick -/

theorem InFrame.setInputs (hu : InFrame a h v k u) (ws : List Cmd) : InFrame a h v k (u.setInputs ws) :=
  ⟨hu.receiving, hu.index, hu.byte, hu.lastLevel, hu.seen, hu.bitFrac, hu.halfFrac⟩

/-- A waiting step stays between the same two instants (R96). -/
theorem InFrame.wait (hu : InFrame a h v k u) (ht : 0 < u.ticksUntilSample.toNat) (level : Bool) :
    InFrame a h v k (sample level u) := by
  rw [sample_wait hu.receiving ht]
  exact ⟨hu.receiving, hu.index, hu.byte, hu.lastLevel, hu.seen, hu.bitFrac, hu.halfFrac⟩

/-- `n` ticks after the edge call the block waits for instant `k`, which is due when its countdown has run out; the
instants before it are past. -/
structure InSchedule (a : BitFrac) (h : HalfFrac) (v : Nat → Bool) (k n : Nat) (u : State) : Prop where
  frame : InFrame a h v k u
  due : n + u.ticksUntilSample.toNat = instantOffset a h k
  past : ∀ j < k, instantOffset a h j < n

theorem InSchedule.setInputs (hu : InSchedule a h v k n u) (ws : List Cmd) : InSchedule a h v k n (u.setInputs ws) :=
  ⟨hu.frame.setInputs ws, hu.due, hu.past⟩

/-- The step after the edge call is in the wait for the first instant (R93, R94). -/
theorem inSchedule_edge (hs : EdgeReady s) (v : Nat → Bool) :
    InSchedule s.bitFracAccumulator s.halfBitFracAccumulator v 0 1 (sample false s) :=
  ⟨inFrame_edge hs v, by rw [← hs.ticks, Nat.add_comm], fun _ hj => absurd hj (Nat.not_lt_zero _)⟩

/-- A tick before the stop instant counts down, or is a data instant and schedules the next one (R96, R97, R100). -/
theorem InSchedule.sample {level : Bool} (hu : InSchedule a h v k n u) (hn : n < instantOffset a h 8) (hk : k ≤ 8)
    (hl : n = instantOffset a h k → level = v k) : ∃ k' ≤ 8, InSchedule a h v k' (n + 1) (sample level u) := by
  have hdue := hu.due
  rcases Nat.eq_zero_or_pos u.ticksUntilSample.toNat with ht | ht
  · have hat : n = instantOffset a h k := by omega
    have hdata : k < 8 := by
      rcases Nat.lt_or_eq_of_le hk with hk | rfl
      · exact hk
      · omega
    obtain rfl : level = v k := hl hat
    refine ⟨k + 1, hdata, hu.frame.data ht hdata, ?_, fun j hj => ?_⟩
    · have := hu.frame.data_ticks ht hdata (v k)
      omega
    · have := instantOffset_mono a h (Nat.le_of_lt_succ hj)
      omega
  · refine ⟨k, hk, hu.frame.wait ht level, ?_, fun j hj => Nat.lt_succ_of_lt (hu.past j hj)⟩
    rw [sample_wait hu.frame.receiving ht, State.emit_ticksUntilSample, waitTick_ticks_toNat]
    omega

/-- The countdown has run out exactly at an instant's offset. -/
theorem InSchedule.ticks_eq_zero_iff (hu : InSchedule a h v k n u) (hk : k ≤ 8) :
    u.ticksUntilSample.toNat = 0 ↔ ∃ j ≤ 8, instantOffset a h j = n := by
  have hdue := hu.due
  constructor
  · intro ht
    exact ⟨k, hk, by omega⟩
  · rintro ⟨j, -, hj⟩
    have hkj : k ≤ j := Nat.le_of_not_lt fun hlt => Nat.ne_of_lt (hu.past j hlt) hj
    have := instantOffset_mono a h hkj
    omega

/-- Every step from the one after the edge call up to the stop instant begins on schedule, whatever the levels. -/
theorem exists_run_inSchedule {levels : List Bool} {rest : List Cmd} (hs : EdgeReady s)
    (ha : s.bitFracAccumulator = a) (hh : s.halfBitFracAccumulator = h) (h0 : levels.head? = some false)
    (hi : s.inputs = sampleWords levels ++ rest) (h1 : 1 ≤ n) (hn : n ≤ instantOffset a h 8) (hlen : n ≤ levels.length) :
    ∃ u, run n s = .next u ∧ ∃ k ≤ 8, InSchedule a h (sampledLevels a h levels) k n u := by
  subst ha hh
  induction n, h1 using Nat.le_induction with
  | base =>
    obtain ⟨ls, rfl⟩ := List.head?_eq_some_iff.1 h0
    exact ⟨_, run_succ (step_sample hi) 0, 0, Nat.zero_le 8, (inSchedule_edge hs _).setInputs _⟩
  | succ n h1 ih =>
    obtain ⟨u, hrun, k, hk, hu⟩ := ih (by omega) (by omega)
    have hui : u.inputs = sampleWord (levels.getD n false) :: (sampleWords (levels.drop (n + 1)) ++ rest) := by
      rw [inputs_after_run hrun hi (by omega), List.drop_eq_getElem_cons (by omega),
        List.getD_eq_getElem levels false (by omega)]
      rfl
    obtain ⟨k', hk', hu'⟩ := hu.sample (level := levels.getD n false) hn hk fun hat => by rw [hat, sampledLevels]
    exact ⟨_, (run_add hrun 1).trans (run_succ (step_sample hui) 0), k', hk', hu'.setInputs _⟩

/-- Settles O43: each row of the table is the closed form in its phase, and the block is on schedule at every step. -/
theorem samplingInstantsAreTheTable : Obligations.SamplingInstantsAreTheTable := by
  unfold Obligations.SamplingInstantsAreTheTable
  intro phase row hmem
  obtain ⟨hlegal, hrow⟩ : phase.1 < 115200 ∧ row = (List.range 9).map (phaseOffset phase.1 phase.2) :=
    (show ∀ p ∈ _, p.1.1 < 115200 ∧ p.2 = (List.range 9).map (phaseOffset p.1.1 p.1.2) from by decide) (phase, row) hmem
  have hget : ∀ k < 9, row.getD k 0 = phaseOffset phase.1 phase.2 k := fun k hk => by
    rw [hrow, List.getD_eq_getElem _ _ (by simpa using hk), List.getElem_map, List.getElem_range]
  constructor
  · intro k hk
    rw [hget k hk]
    exact phaseOffset_margins hlegal hk
  · intro s levels rest hs ha hh h0 hlen hi n h1 hn
    have hoff : ∀ k, instantOffset s.bitFracAccumulator s.halfBitFracAccumulator k = phaseOffset phase.1 phase.2 k :=
      fun k => by rw [instantOffset_eq_phaseOffset (by omega), ha, hh]
    have hstop := phaseOffset_margins (h := phase.2) hlegal (k := 8) (by decide)
    rw [hget 8 (by decide)] at hn
    obtain ⟨u, hrun, k, hk, hu⟩ := exists_run_inSchedule hs rfl rfl h0 hi h1 (hn.trans_eq (hoff 8).symm) (by omega)
    refine ⟨u, hrun, ?_⟩
    rw [and_iff_right hu.frame.receiving, hu.ticks_eq_zero_iff hk, hrow]
    simp only [hoff, List.mem_map, List.mem_range, Nat.lt_succ_iff]

/-! #### The next frame -/

/-- Settles O46: the stop instant leaves the block Idle, a level 1 makes it ready for an edge, and the level 0 after it
is the edge call. -/
theorem nextFrameMayFollowAfterTwoTicks : Obligations.NextFrameMayFollowAfterTwoTicks := by
  unfold Obligations.NextFrameMayFollowAfterTwoTicks
  intro s levels rest hinv hs hlen h0 hi
  have hbounds := hinv.instantOffset_eight_bounds
  obtain ⟨-, t, hrun, hidle, -, -, -, -, hti, -⟩ := exists_run_frame hs rfl rfl rfl hlen h0
    (rest := sampleWords [true, false] ++ rest) (by rw [hi, sampleWords_append, List.append_assoc])
  rw [← hlen] at hrun
  obtain ⟨u, hquiet, hready, hui, -⟩ := exists_quietRun_edgeReady (n := 0) (rest := sampleWord false :: rest) hidle hti
  have hnext := (run_add hrun 1).trans hquiet.reaches
  have hedge := inFrame_edge hready fun _ => false
  refine ⟨by omega, ⟨u, hnext, hready.1⟩, _, (run_add hnext 1).trans (run_succ (step_sample hui) 0), hedge.receiving,
    BitVec.eq_of_toNat_eq hedge.index, BitVec.eq_of_getLsbD_eq fun j hj => ?_, State.setInputs_inputs _ _⟩
  simpa using hedge.byte j hj

end Sys2Proof.Machine
end

section
/-! SUPPORT. What `RESET` leaves (R150) (O31). -/

namespace Sys2Proof.Machine

theorem SameBlock.refl (s : State) : SameBlock s s := ⟨rfl, rfl, rfl, rfl, rfl, rfl, rfl, rfl, rfl⟩

theorem leaves_reset_iff {s u : State} {v : Bool} : Leaves (.reset v) s u ↔ SameBlock ((restart s).emit .none) u := by
  simp [Leaves]

/-- Resetting a block just reset changes nothing. -/
theorem restart_restart_emit (s : State) : (restart ((restart s).emit .none)).emit .none = (restart s).emit .none := by
  simp only [restart_eq, State.emit]

/-- Settles O31: `RESET` is the eight writes of `restart`, and repeating them changes nothing. -/
theorem resetWritesEveryField : Obligations.ResetWritesEveryField := by
  unfold Obligations.ResetWritesEveryField
  intro s v
  constructor
  · rw [leaves_reset_iff]
    constructor <;> simp
  · intro t v' ht
    rw [exec_reset] at ht
    obtain rfl := Host.Outcome.next.inj ht
    rw [leaves_reset_iff, restart_restart_emit]
    exact .refl _

end Sys2Proof.Machine
end

section
/-! SUPPORT. What a completed row leaves in the model's own two fields, by the log (notes/assumptions/1.md and 2.md)
(O11). -/

namespace Sys2Proof.Machine

variable {i : Instr} {s t : State}

theorem Completes.inputs_eq (h : Completes i s t) : t.inputs = s.inputs := by
  cases h with
  | sample level => exact sample_inputs level s
  | _ => simp

/-- A row of a tick ends in `emit`, which clears the count; only the two generator rows answer one. -/
theorem Completes.genCount_eq_none (h : Completes i s t) (hone : i ≠ .ticksOneBit) (hhalf : i ≠ .ticksHalfBit) :
    t.genCount = none := by
  cases h with
  | sample level => exact sample_genCount level s
  | ticksOneBit => exact absurd rfl hone
  | ticksHalfBit => exact absurd rfl hhalf
  | reset | idleHigh | idleLowNoEdge | idleLowEdge | rxWait | rxData | rxStopOk | rxStopErr =>
    exact State.emit_genCount _ _

theorem genCount_of_exec_ticksOneBit (h : exec .ticksOneBit s = .next t) :
    t.genCount = some (oneBitCount s.bitFracAccumulator) := by
  rw [exec_ticksOneBit] at h
  obtain rfl := Host.Outcome.next.inj h
  exact State.answerCount_genCount _ _

theorem genCount_of_exec_ticksHalfBit (h : exec .ticksHalfBit s = .next t) :
    t.genCount = some ((halfBitCount s.halfBitFracAccumulator).zeroExtend 11) := by
  rw [exec_ticksHalfBit] at h
  obtain rfl := Host.Outcome.next.inj h
  exact State.answerCount_genCount _ _

/-- Settles O11: the coming words are no row's; the count is a generator row's answer, and every other row clears it. -/
theorem modelsOwnFieldsFollowTheirLogEntries : Obligations.ModelsOwnFieldsFollowTheirLogEntries := by
  unfold Obligations.ModelsOwnFieldsFollowTheirLogEntries
  intro i s t h
  refine ⟨(completes_of_exec h).inputs_eq, ?_⟩
  split_ifs with hone hhalf
  · subst hone
    rw [genCount_of_exec_ticksOneBit h, ofNat_spelledOneCount]
  · subst hhalf
    rw [genCount_of_exec_ticksHalfBit h, ofNat_spelledHalfCount]
  · exact (completes_of_exec h).genCount_eq_none hone hhalf

end Sys2Proof.Machine
end
